-- ==== Sys2Proof/Word.lean ====
section
/-! DEFINITION. The bit-vector types of the block (00_scope R9: bit 0 is the least significant bit, all values are
unsigned). Timestamps have the configured width TSW and are kept as natural numbers below 2^TSW
(Machine/Operands.lean does their arithmetic; log 2). -/

namespace Sys2Proof

/-- One byte of a stream, a frame or a line. -/
abbrev Byte := BitVec 8

/-- One hex digit's value (43_report_encoder R170). -/
abbrev Nibble := BitVec 4

/-- A 16-bit value: a pulse width or a servo value. -/
abbrev Half := BitVec 16

/-- A 32-bit value: the operand of `hex8` (43_report_encoder R173). -/
abbrev Quad := BitVec 32

end Sys2Proof
end

