-- ==== Sys2Proof/Config.lean ====
section
/-! DEFINITION. The implementation parameters of 00_scope R7 as a record, the well-formedness of R8, the example
configuration EXCFG, and the free values (constants without a body). State carries a `Config`, so every statement is
about every configuration (log 1). -/

namespace Sys2Proof

/-- `PM[k]`: one instance of the generic pulse logic (00_scope R7, R13). -/
structure PulseModule where
  /-- Module letter byte of the module's report lines. -/
  letter : Byte
  /-- Channel count. -/
  nch : Nat
  /-- Reset value of every `last_width` of the module. -/
  initWidth : Half
  deriving DecidableEq, Repr

/-- The handler of a registration entry. `external n` stands for the handler of a module outside the block
(42_command_dispatcher R149, 44_modules R208). -/
inductive Handler where
  | servoRaw
  | servoHex
  | external (n : Nat)
  deriving DecidableEq, Repr

/-- One entry of the registration table `REG` (00_scope R7). -/
structure RegEntry where
  opcode : Byte
  len : Nat
  handler : Handler
  deriving DecidableEq, Repr

/-- The parameters of 00_scope R7. `NPM` is `pm.length`; `MAXLEN` is `Config.maxLen`; `none` is `INF`. -/
structure Config where
  /-- `TSW`: width in bits of `TIMER` and of every timestamp. -/
  tsw : Nat
  /-- `PM[0..NPM-1]`. -/
  pm : List PulseModule
  /-- `WIDTH_MAX`: the largest plausible width. -/
  widthMax : Nat
  /-- `INDEX_OFFSET`. -/
  indexOffset : Nat
  /-- `EOL`: the bytes that end every line. -/
  eol : List Byte
  /-- `REG`: the registration table, in registration order. -/
  reg : List RegEntry
  /-- `OP_SERVO_HEX`. -/
  opServoHex : Byte
  /-- `NSERVO`: channel count of the servo-output module. -/
  nservo : Nat
  /-- `PAYLOAD_TIMEOUT` in ticks of `TIMER`, or `INF`. -/
  payloadTimeout : Option Nat
  /-- `RXQ_DEPTH` in bytes, or `INF`. -/
  rxqDepth : Option Nat
  deriving DecidableEq, Repr

/-- `OP_SERVO_RAW`, fixed at 0x53, the byte of the letter S (00_scope R7). -/
def opServoRaw : Byte := 0x53#8

/-- `MAXLEN`: the largest `len` in `REG` (00_scope R7). -/
def Config.maxLen (c : Config) : Nat := c.reg.foldr (fun e m => max e.len m) 0

/-- The shape of one registration entry: the servo handlers stand behind their own opcodes with the payload lengths
of 30_encoding R82; an external entry has any opcode and length. -/
def Config.entryOk (c : Config) (e : RegEntry) : Bool :=
  match e.handler with
  | .servoRaw => e.opcode == opServoRaw && e.len == 2
  | .servoHex => e.opcode == c.opServoHex && e.len == 5
  | .external _ => true

/-- Well-formed configuration: every constraint of 00_scope R7, and R8's distinct opcodes and distinct letters. The
two servo rows of 30_encoding R82 are present (DEDUCED, log 11). -/
def Config.wf (c : Config) : Bool :=
  decide (16 ≤ c.tsw ∧
    1 ≤ c.pm.length ∧
    (c.pm.map (·.letter)).Nodup ∧
    (∀ m ∈ c.pm, 1 ≤ m.nch ∧ c.indexOffset + m.nch ≤ 256) ∧
    c.widthMax ≤ 65535 ∧
    c.indexOffset ≤ 255 ∧
    (c.reg.map (·.opcode)).Nodup ∧
    (∀ e ∈ c.reg, c.entryOk e = true) ∧
    ⟨opServoRaw, 2, .servoRaw⟩ ∈ c.reg ∧
    ⟨c.opServoHex, 5, .servoHex⟩ ∈ c.reg ∧
    1 ≤ c.nservo ∧
    c.indexOffset + c.nservo ≤ 256 ∧
    (∀ t ∈ c.payloadTimeout, 1 ≤ t ∧ t < 2 ^ c.tsw) ∧
    (∀ d ∈ c.rxqDepth, 1 ≤ d))

/-- `EXCFG`, the example column of 00_scope R7. The spec uses it for test vectors only; the model takes it as the
configuration of `State.reset` and of the host's table words (DESIGN CHOICE, log 1). -/
def Config.excfg : Config where
  tsw := 32
  pm := [⟨0x50#8, 2, 1500#16⟩, ⟨0x49#8, 1, 1500#16⟩]
  widthMax := 65535
  indexOffset := 0x20
  eol := [0x0D#8, 0x0A#8]
  reg := [⟨0x53#8, 2, .servoRaw⟩, ⟨0x73#8, 5, .servoHex⟩]
  opServoHex := 0x73#8
  nservo := 2
  payloadTimeout := some 1000
  rxqDepth := none

/-! ## Free values: no body, so nothing can be proved of what they are (logs 4 and 10) -/

/-- What `cur` holds after the n-th `RESET`, before it is brought into its range (10_state R30, R40: unspecified). -/
opaque Config.freeCur : Nat → Nat

/-- What byte `i` of `buf` holds after the n-th `RESET` (10_state R32, R40: unspecified). -/
opaque Config.freeBufByte : Nat → Nat → Byte

/-- What `frame_t0` holds after the n-th `RESET`, before it is brought into its range (10_state R33, R40). -/
opaque Config.freeFrameT0 : Nat → Nat

/-- The lines an external module's handler emits: handler number, a fresh counter, opcode, payload
(42_command_dispatcher R149: "what its handler does is outside the spec"; 44_modules R208: whole lines). -/
opaque Config.externalLines : Nat → Nat → Byte → List Byte → List (List Byte)

end Sys2Proof
end

