-- ==== Sys2Proof/Syntax.lean ====
section
/-! DEFINITION. The operations of the block (00_scope R2): one constructor of `Instr` for each row of
spec/opcode_table.json, and the encoded objects they are read from (30_encoding R70, 10_state R39). -/

namespace Sys2Proof

/-- One constructor per row of spec/opcode_table.json. `k` names a pulse module, `c` a channel of it. -/
inductive Instr where
  -- command frames, host to device
  /-- SERVO_RAW: index byte `b`, raw value `val` (30_encoding R72, 44_modules R196). -/
  | servoRaw (b val : Byte)
  /-- SERVO_HEX: index byte `b`, four ASCII digits, most significant first (30_encoding R73, 44_modules R197). -/
  | servoHex (b h3 h2 h1 h0 : Byte)
  /-- UNREGISTERED: a byte read as an opcode that matches no entry of REG (30_encoding R83). -/
  | unregistered (b : Byte)
  -- lines, device to host
  /-- CHANGE_REPORT: `ChangeLine(k, c, w)` (43_report_encoder R178). -/
  | changeReport (k c : Nat) (w : Half)
  /-- FULL_REPORT: `FullLine(k, c)` (43_report_encoder R179). -/
  | fullReport (k c : Nat)
  /-- ACK_SERVO_RAW: the SERVO_RAW frame echoed (43_report_encoder R180). -/
  | ackServoRaw (b val : Byte)
  /-- ACK_SERVO_HEX: the SERVO_HEX frame echoed (43_report_encoder R180). -/
  | ackServoHex (b h3 h2 h1 h0 : Byte)
  -- port strobes
  /-- TIMER_TICK (40_edge_timer R100). -/
  | timerTick
  /-- RISE (40_edge_timer R102). -/
  | rise (k c : Nat)
  /-- FALL (40_edge_timer R103). -/
  | fall (k c : Nat)
  /-- RX_BYTE (42_command_dispatcher R141). -/
  | rxByte (d : Byte)
  /-- OP_DISPATCH (42_command_dispatcher R142). -/
  | opDispatch
  /-- OP_UPDATE (44_modules R193). -/
  | opUpdate (k : Nat)
  /-- OP_REPORT (44_modules R194). -/
  | opReport (k : Nat)
  /-- RESET (70_reset_and_hazards R250). -/
  | reset
  -- internal micro-steps
  /-- PAYLOAD_BYTE (42_command_dispatcher R144). -/
  | payloadByte
  /-- FRAME_TIMEOUT (42_command_dispatcher R145). -/
  | frameTimeout
  /-- DISPATCH_EXEC (42_command_dispatcher R146). -/
  | dispatchExec
  /-- UPDATE_STEP (44_modules R193). -/
  | updateStep
  -- called functions
  /-- POLL (41_pulse_channel R120). -/
  | poll (k c : Nat)
  /-- UPDATE_CHANNEL (44_modules R192). -/
  | updateChannel (k c : Nat)
  /-- HEXDIGIT (43_report_encoder R170). -/
  | hexdigit (n : Nibble)
  /-- HEX2 (43_report_encoder R171). -/
  | hex2 (b : Byte)
  /-- HEX4 (43_report_encoder R172). -/
  | hex4 (v : Half)
  /-- HEX8 (43_report_encoder R173). -/
  | hex8 (v : Quad)
  /-- HEXVAL (43_report_encoder R174). -/
  | hexval (ch : Byte)
  /-- HEXDEC4 (43_report_encoder R175). -/
  | hexdec4 (h3 h2 h1 h0 : Byte)
  /-- TX_LINE (43_report_encoder R177). -/
  | txLine (bytes : List Byte)
  deriving DecidableEq, Repr

/-- The input ports that start an operation (10_state R39). -/
inductive Port where
  | tmrTick
  | edgeRise (k c : Nat)
  | edgeFall (k c : Nat)
  | rx
  | reqDispatch
  | reqUpdate (k : Nat)
  | reqReport (k : Nat)
  | rst
  deriving DecidableEq, Repr

/-- The internal micro-steps: no encoding and no port, selected by their enabling condition. -/
inductive MicroStep where
  | payloadByte
  | frameTimeout
  | dispatchExec
  | updateStep
  deriving DecidableEq, Repr

/-- One thing that can take the next place in the total order of operations (20_memory R58): a strobe on a port with
the bits of its row in the opcode table (`1`, or `1 dddddddd` for the receive port), or a micro-step of the block. -/
inductive Signal where
  | port (p : Port) (bits : Nat)
  | internal (m : MicroStep)
  deriving DecidableEq, Repr

/-- The encoded objects of the opcode table by its column `direction`: a command frame, a line without its EOL, or a
signal. The called functions have no encoding. -/
inductive Encoding where
  | frame (bytes : List Byte)
  | line (bytes : List Byte)
  | signal (g : Signal)
  deriving DecidableEq, Repr

end Sys2Proof
end

