-- ==== Sys2Proof/Machine/Operands.lean ====
section
/-! DEFINITION. Every operand form and every piece of arithmetic the spec lists in 41_pulse_channel R126: timestamp
arithmetic, plausibility, wire indexes, raw and hex fields, the opcode lookup. Pure functions, no state. -/

namespace Sys2Proof

/-! ## Timestamps (R126 items 1 to 4 and 8) -/

/-- `(t + 1) mod 2^TSW` (40_edge_timer R100). -/
def incWrap (tsw t : Nat) : Nat := (t + 1) % 2 ^ tsw

/-- `(f - r) mod 2^TSW`: unsigned wrapping subtraction at the timer's width (41_pulse_channel R121). -/
def subWrap (tsw f r : Nat) : Nat := (BitVec.ofNat tsw f - BitVec.ofNat tsw r).toNat

/-- A difference is plausible when it is not above `WIDTH_MAX` (41_pulse_channel R122). -/
def plausible (c : Config) (d : Nat) : Bool := decide (d ≤ c.widthMax)

/-- `d[15:0]` (41_pulse_channel R120, R122). -/
def lowHalf (d : Nat) : Half := BitVec.ofNat 16 d

/-- Frame deadline passed: `(TIMER - frame_t0) mod 2^TSW >= PAYLOAD_TIMEOUT`, never with `INF`
(42_command_dispatcher R145). -/
def deadlinePassed (c : Config) (timer t0 : Nat) : Bool :=
  match c.payloadTimeout with
  | none => false
  | some limit => decide (limit ≤ subWrap c.tsw timer t0)

/-! ## Wire indexes (20_memory R51; R126 items 6 and 7) -/

/-- `idxbyte(c) = INDEX_OFFSET + c`, one raw byte (43_report_encoder R181). -/
def idxbyte (c : Config) (i : Nat) : Byte := BitVec.ofNat 8 (c.indexOffset + i)

/-- `idx_ok(b, n)`, computed without wrap-around (44_modules R198). -/
def idxOk (c : Config) (b : Byte) (n : Nat) : Bool :=
  decide (c.indexOffset ≤ b.toNat) && decide (b.toNat < c.indexOffset + n)

/-- `b - INDEX_OFFSET`, used only after `idx_ok` (20_memory R51). -/
def unindex (c : Config) (b : Byte) : Nat := b.toNat - c.indexOffset

/-! ## Raw and hex fields (30_encoding R75 to R77; 43_report_encoder R170 to R175) -/

/-- `zext_16` of a raw value byte (30_encoding R75). -/
def zext16 (b : Byte) : Half := b.zeroExtend 16

/-- `hexdigit(n)` (43_report_encoder R170): upper case. -/
def hexdigit (n : Nibble) : Byte :=
  if n.toNat ≤ 9 then BitVec.ofNat 8 (0x30 + n.toNat) else BitVec.ofNat 8 (0x41 + (n.toNat - 10))

/-- `hex2(b)` (43_report_encoder R171): high nibble first. -/
def hex2 (b : Byte) : List Byte := [hexdigit (b.extractLsb' 4 4), hexdigit (b.extractLsb' 0 4)]

/-- `hex4(v)` (43_report_encoder R172). -/
def hex4 (v : Half) : List Byte := hex2 (v.extractLsb' 8 8) ++ hex2 (v.extractLsb' 0 8)

/-- `hex8(v)` (43_report_encoder R173). -/
def hex8 (v : Quad) : List Byte := hex4 (v.extractLsb' 16 16) ++ hex4 (v.extractLsb' 0 16)

/-- `hexval(ch)` (43_report_encoder R174): both letter cases; `none` is `invalid`. -/
def hexval (ch : Byte) : Option Nibble :=
  if 0x30 ≤ ch.toNat ∧ ch.toNat ≤ 0x39 then some (BitVec.ofNat 4 (ch.toNat - 0x30))
  else if 0x41 ≤ ch.toNat ∧ ch.toNat ≤ 0x46 then some (BitVec.ofNat 4 (ch.toNat - 0x37))
  else if 0x61 ≤ ch.toNat ∧ ch.toNat ≤ 0x66 then some (BitVec.ofNat 4 (ch.toNat - 0x57))
  else none

/-- The assembly `(d3 << 12) | (d2 << 8) | (d1 << 4) | d0` of 30_encoding R76. -/
def joinNibbles (d3 d2 d1 d0 : Nibble) : Half :=
  (d3.zeroExtend 16 <<< 12) ||| (d2.zeroExtend 16 <<< 8) ||| (d1.zeroExtend 16 <<< 4) ||| d0.zeroExtend 16

/-- `hexdec4([h3, h2, h1, h0])` (43_report_encoder R175); `none` is `invalid`. -/
def hexdec4 (h3 h2 h1 h0 : Byte) : Option Half :=
  match hexval h3, hexval h2, hexval h1, hexval h0 with
  | some d3, some d2, some d1, some d0 => some (joinNibbles d3 d2 d1 d0)
  | _, _, _, _ => none

/-! ## The opcode space (20_memory R52; 42_command_dispatcher R143) -/

/-- The search of `lookup` from position `n` on: the first entry whose opcode is `b`, with its position. -/
def lookupFrom : List RegEntry → Nat → Byte → Option (Nat × RegEntry)
  | [], _, _ => none
  | e :: es, n, b => if e.opcode = b then some (n, e) else lookupFrom es (n + 1) b

/-- `lookup(b)`: the smallest `i` with `REG[i].opcode = b`, with that entry, or `none`
(42_command_dispatcher R143). -/
def lookup (c : Config) (b : Byte) : Option (Nat × RegEntry) := lookupFrom c.reg 0 b

/-- A byte of the opcode space is unregistered when it matches no entry (30_encoding R83). -/
def isUnregistered (c : Config) (b : Byte) : Bool := (lookup c b).isNone

/-! ## Line layouts (30_encoding R78 to R80) -/

/-- First byte of a change report, 0x43, the byte of the letter C (30_encoding R78). -/
def kindChange : Byte := 0x43#8

/-- First byte of a full report, 0x52, the byte of the letter R (30_encoding R79). -/
def kindFull : Byte := 0x52#8

/-- A report line without its EOL: kind, module letter, raw index byte, four hex digits (30_encoding R78, R79). -/
def reportBytes (c : Config) (kind letter : Byte) (i : Nat) (w : Half) : List Byte :=
  [kind, letter, idxbyte c i] ++ hex4 w

end Sys2Proof
end

