-- ==== Sys2Proof/WellFormed.lean ====
section
/-! DEFINITION. Which terms of `Instr` are operations of a block with configuration `c`: an operand pair names a
channel, a module number names a module, and UNREGISTERED carries a byte that no entry of REG has. -/

namespace Sys2Proof

/-- `k` is in `0..NPM-1` and `c` in `0..PM[k].NCH-1` (the channel index space of 20_memory R50). -/
def Config.hasChannel (cfg : Config) (k c : Nat) : Bool :=
  match cfg.pm[k]? with
  | some m => decide (c < m.nch)
  | none => false

/-- `k` is in `0..NPM-1`. -/
def Config.hasModule (cfg : Config) (k : Nat) : Bool := decide (k < cfg.pm.length)

/-- The well-formed instructions of a configuration. -/
def Instr.wf (cfg : Config) : Instr → Bool
  | .servoRaw _ _ => true
  | .servoHex _ _ _ _ _ => true
  | .unregistered b => isUnregistered cfg b
  | .changeReport k c _ => cfg.hasChannel k c
  | .fullReport k c => cfg.hasChannel k c
  | .ackServoRaw _ _ => true
  | .ackServoHex _ _ _ _ _ => true
  | .timerTick => true
  | .rise k c => cfg.hasChannel k c
  | .fall k c => cfg.hasChannel k c
  | .rxByte _ => true
  | .opDispatch => true
  | .opUpdate k => cfg.hasModule k
  | .opReport k => cfg.hasModule k
  | .reset => true
  | .payloadByte => true
  | .frameTimeout => true
  | .dispatchExec => true
  | .updateStep => true
  | .poll k c => cfg.hasChannel k c
  | .updateChannel k c => cfg.hasChannel k c
  | .hexdigit _ => true
  | .hex2 _ => true
  | .hex4 _ => true
  | .hex8 _ => true
  | .hexval _ => true
  | .hexdec4 _ _ _ _ => true
  | .txLine _ => true

end Sys2Proof
end

