-- ==== Sys2Proof/Decode.lean ====
section
/-! DEFINITION. The decoder of the encoded objects, total and rejecting by name, and after it the encoder, both from
the layouts of 30_encoding R70 to R83 and the port table of 10_state R39. -/

namespace Sys2Proof

/-- Why an encoded object is no operation of the block. -/
inductive DecodeError where
  /-- A frame without a byte. -/
  | emptyFrame
  /-- A registered opcode with fewer payload bytes than its `len` (the dispatcher waits for them: E-STARVED). -/
  | starvedFrame
  /-- A frame followed by further bytes, given as one frame. -/
  | trailingBytes
  /-- A registered opcode of a module outside the block (42_command_dispatcher R149): no row of the table. -/
  | externalModule (n : Nat)
  /-- An entry whose `len` does not fit its handler (no well-formed configuration has one). -/
  | badEntry
  /-- A line of no shape of 30_encoding R78 to R80. -/
  | unknownLine
  /-- A report line whose letter, index byte or digits the block never emits. -/
  | badReport
  /-- The strobe bit is 0: no event on this port. -/
  | strobeLow
  /-- More bits than the port has. -/
  | tooWide
  /-- The configuration has no such port. -/
  | noSuchPort
  deriving DecidableEq, Repr

/-! ## Command frames (30_encoding R70 to R73, R83, R86) -/

/-- The instruction of a complete frame, from its handler and its payload bytes. -/
def frameInstr (h : Handler) (payload : List Byte) : Except DecodeError Instr :=
  match h, payload with
  | .servoRaw, [b, val] => .ok (.servoRaw b val)
  | .servoHex, [b, h3, h2, h1, h0] => .ok (.servoHex b h3 h2 h1 h0)
  | .external n, _ => .error (.externalModule n)
  | _, _ => .error .badEntry

/-- Read one frame from the front of a byte stream: the opcode alone gives the length (30_encoding R86); the rest of
the stream is returned. -/
def decodeFrame (c : Config) : List Byte → Except DecodeError (Instr × List Byte)
  | [] => .error .emptyFrame
  | op :: rest =>
    match lookup c op with
    | none => .ok (.unregistered op, rest)
    | some (_, e) =>
      if rest.length < e.len then .error .starvedFrame
      else (frameInstr e.handler (rest.take e.len)).map (fun i => (i, rest.drop e.len))

/-! ## Lines (30_encoding R78 to R80) -/

/-- The module whose letter is `m`, searched from number `n` on. -/
def findLetter : List PulseModule → Nat → Byte → Option (Nat × PulseModule)
  | [], _, _ => none
  | x :: xs, n, m => if x.letter = m then some (n, x) else findLetter xs (n + 1) m

/-- A digit of a line: the block writes upper case only (43_report_encoder R170). -/
def lineDigit (ch : Byte) : Option Nibble := if ch.toNat < 0x61 then hexval ch else none

/-- The four digits of a report line. -/
def lineValue (a b c d : Byte) : Option Half :=
  match lineDigit a, lineDigit b, lineDigit c, lineDigit d with
  | some d3, some d2, some d1, some d0 => some (joinNibbles d3 d2 d1 d0)
  | _, _, _, _ => none

/-- Module, channel and value of a report line's bytes after the kind byte (30_encoding R78, R79). -/
def readReport (cfg : Config) (m i a b c d : Byte) : Option (Nat × Nat × Half) :=
  match findLetter cfg.pm 0 m, lineValue a b c d with
  | some (k, x), some w => if idxOk cfg i x.nch then some (k, unindex cfg i, w) else none
  | _, _ => none

/-- Read one line, without its EOL, by its fixed length and first byte (70_reset_and_hazards R266). A full report's
digits are the value it shows, not an operand of `FullLine(k, c)` (log 20). -/
def decodeLine (cfg : Config) : List Byte → Except DecodeError Instr
  | [kind, m, i, a, b, c, d] =>
    if kind = kindChange then
      match readReport cfg m i a b c d with
      | some (k, ch, w) => .ok (.changeReport k ch w)
      | none => .error .badReport
    else if kind = kindFull then
      match readReport cfg m i a b c d with
      | some (k, ch, _) => .ok (.fullReport k ch)
      | none => .error .badReport
    else .error .unknownLine
  | [op, b, val] => if op = opServoRaw then .ok (.ackServoRaw b val) else .error .unknownLine
  | [op, b, h3, h2, h1, h0] =>
    if op = cfg.opServoHex then .ok (.ackServoHex b h3 h2 h1 h0) else .error .unknownLine
  | _ => .error .unknownLine

/-! ## Port strobes and micro-steps (10_state R39) -/

/-- A one-bit strobe port: 1 is the event, 0 is none. -/
def strobe (bits : Nat) (i : Instr) : Except DecodeError Instr :=
  if bits = 1 then .ok i else if bits = 0 then .error .strobeLow else .error .tooWide

/-- The operation a port's bits start. The receive port's nine bits are the strobe above `rx_data[7:0]`. -/
def decodePort (cfg : Config) (p : Port) (bits : Nat) : Except DecodeError Instr :=
  match p with
  | .tmrTick => strobe bits .timerTick
  | .edgeRise k c => if cfg.hasChannel k c then strobe bits (.rise k c) else .error .noSuchPort
  | .edgeFall k c => if cfg.hasChannel k c then strobe bits (.fall k c) else .error .noSuchPort
  | .rx =>
    if bits < 256 then .error .strobeLow
    else if bits < 512 then .ok (.rxByte (BitVec.ofNat 8 bits)) else .error .tooWide
  | .reqDispatch => strobe bits .opDispatch
  | .reqUpdate k => if cfg.hasModule k then strobe bits (.opUpdate k) else .error .noSuchPort
  | .reqReport k => if cfg.hasModule k then strobe bits (.opReport k) else .error .noSuchPort
  | .rst => strobe bits .reset

/-- The operation of a micro-step. -/
def MicroStep.instr : MicroStep → Instr
  | .payloadByte => .payloadByte
  | .frameTimeout => .frameTimeout
  | .dispatchExec => .dispatchExec
  | .updateStep => .updateStep

/-- The operation of a signal. -/
def decodeSignal (cfg : Config) : Signal → Except DecodeError Instr
  | .port p bits => decodePort cfg p bits
  | .internal m => .ok m.instr

/-- The decoder of every encoded object. -/
def decode (cfg : Config) : Encoding → Except DecodeError Instr
  | .frame bytes =>
    match decodeFrame cfg bytes with
    | .ok (i, []) => .ok i
    | .ok (_, _ :: _) => .error .trailingBytes
    | .error e => .error e
  | .line bytes => decodeLine cfg bytes
  | .signal g => decodeSignal cfg g

/-! ## The encoder -/

/-- The module letter of `PM[k]`. -/
def Config.letter (cfg : Config) (k : Nat) : Byte :=
  match cfg.pm[k]? with
  | some m => m.letter
  | none => 0#8

/-- The encoding of an instruction; `none` for the called functions, which have none. `held` is the value a full
report shows (43_report_encoder R179); no other instruction uses it. -/
def encode (cfg : Config) (held : Half) : Instr → Option Encoding
  | .servoRaw b val => some (.frame [opServoRaw, b, val])
  | .servoHex b h3 h2 h1 h0 => some (.frame [cfg.opServoHex, b, h3, h2, h1, h0])
  | .unregistered b => some (.frame [b])
  | .changeReport k c w => some (.line (reportBytes cfg kindChange (cfg.letter k) c w))
  | .fullReport k c => some (.line (reportBytes cfg kindFull (cfg.letter k) c held))
  | .ackServoRaw b val => some (.line [opServoRaw, b, val])
  | .ackServoHex b h3 h2 h1 h0 => some (.line [cfg.opServoHex, b, h3, h2, h1, h0])
  | .timerTick => some (.signal (.port .tmrTick 1))
  | .rise k c => some (.signal (.port (.edgeRise k c) 1))
  | .fall k c => some (.signal (.port (.edgeFall k c) 1))
  | .rxByte d => some (.signal (.port .rx (256 + d.toNat)))
  | .opDispatch => some (.signal (.port .reqDispatch 1))
  | .opUpdate k => some (.signal (.port (.reqUpdate k) 1))
  | .opReport k => some (.signal (.port (.reqReport k) 1))
  | .reset => some (.signal (.port .rst 1))
  | .payloadByte => some (.signal (.internal .payloadByte))
  | .frameTimeout => some (.signal (.internal .frameTimeout))
  | .dispatchExec => some (.signal (.internal .dispatchExec))
  | .updateStep => some (.signal (.internal .updateStep))
  | .poll _ _ => none
  | .updateChannel _ _ => none
  | .hexdigit _ => none
  | .hex2 _ => none
  | .hex4 _ => none
  | .hex8 _ => none
  | .hexval _ => none
  | .hexdec4 _ _ _ _ => none
  | .txLine _ => none

/-! ## The host's table words (log 17) -/

/-- The bytes of a table word, first byte first: the table's first byte is its most significant one. -/
def tableBytes : Nat → Nat → List Byte
  | 0, _ => []
  | n + 1, w => BitVec.ofNat 8 (w / 256 ^ n) :: tableBytes n w

/-- The decoder on a table word of `nbits` bits: 56 bits are a report line, 9 to 16 bits are the receive port's, any
other word is a frame with zero bytes after the bits given. -/
def decodeWord (cfg : Config) (nbits w : Nat) : Option Instr :=
  let n := (nbits + 7) / 8
  if n = 7 then (decodeLine cfg (tableBytes n w)).toOption
  else if n = 2 then (decodePort cfg .rx w).toOption
  else if n = 0 then none
  else ((decodeFrame cfg (tableBytes n w ++ List.replicate cfg.maxLen 0#8)).map (·.1)).toOption

/-- The host's entry: the example configuration, as in `State.reset`. -/
def decodeTableWord (nbits w : Nat) : Option Instr := decodeWord Config.excfg nbits w

end Sys2Proof
end

