-- ==== Sys2Proof/Machine/State.lean ====
section
/-! DEFINITION. The complete state of the block (10_state R20) as plain data, the state after reset (R40), and the
reasons a step can stop. -/

namespace Sys2Proof.Machine

/-- The four registers of one channel (10_state R21 to R25). Timestamps are TSW-bit values, below `2 ^ cfg.tsw` in
every reachable state (log 2). -/
structure Channel where
  /-- `rising`: the value `TIMER` had at the most recent RISE (R21). -/
  rising : Nat
  /-- `falling`: the value `TIMER` had at the most recent FALL (R22). -/
  falling : Nat
  /-- `has_new`: the block's only flag (R25). -/
  hasNew : Bool
  /-- `last_width`: the most recent valid reading (R23). -/
  lastWidth : Half
  deriving DecidableEq, Repr

/-- `dstate` (10_state R29). -/
inductive DState where
  | awaitingOpcode
  | awaitingPayload
  | dispatching
  deriving DecidableEq, Repr

/-- `mstate` (10_state R34). -/
inductive MState where
  | idle
  | inDispatch
  | inUpdate (k c : Nat)
  deriving DecidableEq, Repr

/-- One record of `servo_out` (10_state R37): index, value, and whether it came from SERVO_HEX. -/
structure ServoWrite where
  idx : Nat
  val : Half
  hex : Bool
  deriving DecidableEq, Repr

/-- What the last directly executed function row returned (the model's own field, log 7). `none` inside is the spec's
`invalid` (R174, R175) or `None` (R120). -/
inductive Result where
  | nothing
  | byte (b : Byte)
  | bytes (bs : List Byte)
  | nibble (v : Option Nibble)
  | half (v : Option Half)
  | poll (w : Option Half)
  deriving DecidableEq, Repr

/-- The error conditions of 60_exceptions R220 that a running block can meet; each is handled by a silent drop. -/
inductive ErrorCondition where
  | unknownOpcode
  | starved
  | index
  | hex
  deriving DecidableEq, Repr

/-- The reasons a step stops with a fault. The block itself has none (70_reset_and_hazards R272): each of these needs
an operand or a state that no well-formed configuration gives, so stopping is safe (logs 13 and 14). -/
inductive Fault where
  /-- Raised by RISE, FALL, POLL, UPDATE_CHANNEL, UPDATE_STEP, OP_REPORT, CHANGE_REPORT, FULL_REPORT: the pair names no
  channel of the block, an address its channel index space does not have (20_memory R50). Safe. -/
  | noSuchChannel
  /-- Raised by OP_UPDATE, UPDATE_STEP, OP_REPORT, CHANGE_REPORT, FULL_REPORT: `k` is not below NPM. Safe. -/
  | noSuchModule
  /-- Raised by PAYLOAD_BYTE and DISPATCH_EXEC: `cur` is outside REG, which 10_state R30 excludes. Safe. -/
  | curOutOfRange
  deriving DecidableEq, Repr

/-- The reasons a step is refused. -/
inductive Refusal where
  /-- Raised by an arm of `exec` whose instruction has no meaning yet (none is left). Safe. -/
  | notModelled (mnemonic : String)
  /-- Raised by `step`: the configuration is ill-formed, and the block is not built (00_scope R8, 60_exceptions R225,
  E-DUP-OPCODE). Safe. -/
  | illFormedConfig
  /-- Raised by `step`: a strobe on a port the configuration does not have, or wider than its port. Safe. -/
  | illFormedSignal (e : DecodeError)
  deriving DecidableEq, Repr

/-- The state of the block. The first group is the spec's (10_state R20: "Nothing else is state"); `cfg`, `pending`,
`result` and `freeCount` are the model's own (logs 1, 5, 7, 4). -/
structure State where
  /-- `ch[k][c]`. -/
  ch : List (List Channel)
  /-- `TIMER` (R26). -/
  timer : Nat
  /-- `dstate` (R29). -/
  dstate : DState
  /-- `cur` (R30). -/
  cur : Nat
  /-- `cnt` (R31). -/
  cnt : Nat
  /-- `buf[0..MAXLEN-1]` (R32). The block has no memory (20_memory R50, log 19). -/
  buf : List Byte
  /-- `frame_t0` (R33). -/
  frameT0 : Nat
  /-- `mstate` (R34). -/
  mstate : MState
  /-- `rxq`, oldest first (R35). -/
  rxq : List Byte
  /-- `tx`, oldest first (R36). -/
  tx : List Byte
  /-- `servo_out`, oldest first (R37). -/
  servoOut : List ServoWrite
  /-- The configuration; no operation writes it. -/
  cfg : Config
  /-- The strobes and micro-steps still to take their place in the total order, oldest first. -/
  pending : List Signal
  /-- What the last directly executed function row returned. -/
  result : Result
  /-- How many free values have been drawn. -/
  freeCount : Nat
  deriving DecidableEq, Repr

/-- A channel right after reset (10_state R40). -/
def Channel.atReset (w : Half) : Channel where
  rising := 0
  falling := 0
  hasNew := false
  lastWidth := w

/-- The channels right after reset, one list per pulse module (10_state R40). -/
def resetChannels (c : Config) : List (List Channel) :=
  c.pm.map (fun m => List.replicate m.nch (Channel.atReset m.initWidth))

/-- The state of 10_state R40 for a configuration. `cur`, `buf` and `frame_t0`, which R40 leaves unspecified, are
named zero here (DESIGN CHOICE, log 3); the operation RESET leaves them free (Machine/Reset.lean). -/
def State.resetOf (c : Config) : State where
  ch := resetChannels c
  timer := 0
  dstate := .awaitingOpcode
  cur := 0
  cnt := 0
  buf := List.replicate c.maxLen 0#8
  frameT0 := 0
  mstate := .idle
  rxq := []
  tx := []
  servoOut := []
  cfg := c
  pending := []
  result := .nothing
  freeCount := 0

/-- The machine right after reset, with the example configuration (DESIGN CHOICE, log 1). -/
def State.reset : State := State.resetOf Config.excfg

end Sys2Proof.Machine
end

