-- ==== Sys2Proof/Machine/Flags.lean ====
section
/-! DEFINITION. Every computation of the block's one flag `has_new` (10_state R25) with the register writes the spec
makes in the same operation, and the two status outputs `busy` and `rx_ready` (10_state R39). -/

namespace Sys2Proof.Machine

/-- RISE on one channel: stamp `rising`, clear `has_new` (40_edge_timer R102). -/
def Channel.stampRise (now : Nat) (x : Channel) : Channel :=
  { x with rising := now, hasNew := false }

/-- FALL on one channel: stamp `falling`, set `has_new` (40_edge_timer R103). -/
def Channel.stampFall (now : Nat) (x : Channel) : Channel :=
  { x with falling := now, hasNew := true }

/-- The width POLL computes from a channel's stamps: the wrapped difference when plausible, else the held one
(41_pulse_channel R120 to R123). -/
def Channel.width (c : Config) (x : Channel) : Half :=
  if plausible c (subWrap c.tsw x.falling x.rising) then lowHalf (subWrap c.tsw x.falling x.rising)
  else x.lastWidth

/-- POLL on one channel: the atomic read-and-clear, with its result `None` or `Some(w)` (41_pulse_channel R120,
20_memory R61). -/
def Channel.poll (c : Config) (x : Channel) : Channel × Option Half :=
  if x.hasNew then ({ x with hasNew := false, lastWidth := x.width c }, some (x.width c)) else (x, none)

/-- Port `busy`: `mstate != Idle` (10_state R34, R39; the transmit FIFO's part is log 16). -/
def State.busy (s : State) : Bool := decide (s.mstate ≠ .idle)

/-- Port `rx_ready`: `|rxq| < RXQ_DEPTH` (10_state R39). -/
def State.rxReady (s : State) : Bool :=
  match s.cfg.rxqDepth with
  | none => true
  | some d => decide (s.rxq.length < d)

end Sys2Proof.Machine
end

