-- ==== Sys2Proof/Machine/Ops.lean ====
section
/-! DEFINITION. The named operations over the state: the pseudocode primitives of 00_scope R11, access to channels
and modules, the shared error handling, the line builders of 43_report_encoder R177 to R180, and the command handlers
of 44_modules R196 and R197, which both their own rows and DISPATCH_EXEC run. -/

namespace Sys2Proof.Machine

/-- The three outcomes, at this machine's types. -/
abbrev Out := Host.Outcome State Fault Refusal

/-- Sequencing inside one atomic operation: the second part runs on the first part's state. -/
def andThen (o : Out) (f : State → Out) : Out :=
  match o with
  | .next s => f s
  | .fault r => .fault r
  | .refused r => .refused r

/-! ## Ways an operation ends without an effect -/

/-- Error handling, the same for every error condition of 60_exceptions R220: the operation ends here with no further
state change and no output (00_scope R11, R13). -/
def drop (_ : ErrorCondition) (s : State) : Out := .next s

/-- A harness request while the main context is busy: ignored, not queued (42_command_dispatcher R147). -/
def ignored (s : State) : Out := .next s

/-- An operation whose enabling condition is false does not happen: nothing changes (DEDUCED, log 6). -/
def notEnabled (s : State) : Out := .next s

/-! ## Registers -/

/-- `now()` (40_edge_timer R101). -/
def State.now (s : State) : Nat := s.timer

/-- `ch[k][c]`, if the block has that channel (10_state R24). -/
def State.chan? (s : State) (k c : Nat) : Option Channel :=
  match s.ch[k]? with
  | some row => row[c]?
  | none => none

/-- `ch[k][c] <- x`. -/
def State.setChan (s : State) (k c : Nat) (x : Channel) : State :=
  { s with ch := s.ch.modify k (fun row => row.set c x) }

/-- Run `f` on `ch[k][c]`; a pair that names no channel is an address that does not exist. -/
def withChannel (k c : Nat) (s : State) (f : Channel → Out) : Out :=
  match s.chan? k c with
  | some x => f x
  | none => .fault .noSuchChannel

/-- Run `f` on `PM[k]`. -/
def withModule (k : Nat) (s : State) (f : PulseModule → Out) : Out :=
  match s.cfg.pm[k]? with
  | some m => f m
  | none => .fault .noSuchModule

/-- Run `f` on `REG[cur]` (10_state R30). -/
def withEntry (s : State) (f : RegEntry → Out) : Out :=
  match s.cfg.reg[s.cur]? with
  | some e => f e
  | none => .fault .curOutOfRange

/-- `dstate <- d; mstate <- m`. -/
def State.setMain (s : State) (d : DState) (m : MState) : State := { s with dstate := d, mstate := m }

/-- The returned value of a directly executed function row (log 7). -/
def State.setResult (s : State) (r : Result) : State := { s with result := r }

/-! ## Streams (00_scope R11) -/

/-- `RxPop()`: the oldest byte of `rxq` and the state without it. -/
def State.rxPop (s : State) : Option (Byte × State) :=
  match s.rxq with
  | [] => none
  | b :: rest => some (b, { s with rxq := rest })

/-- `rxq <- rxq ++ [b]`. -/
def State.rxPush (s : State) (b : Byte) : State := { s with rxq := s.rxq ++ [b] }

/-- `TxEmit(bytes)`. -/
def State.txEmit (s : State) (bytes : List Byte) : State := { s with tx := s.tx ++ bytes }

/-- `ServoWrite(i, v, h)` (44_modules R209). -/
def State.servoWrite (s : State) (i : Nat) (v : Half) (h : Bool) : State :=
  { s with servoOut := s.servoOut ++ [⟨i, v, h⟩] }

/-! ## Lines (43_report_encoder R177 to R180) -/

/-- `TxLine(bytes)`: the bytes and `EOL` (R177). -/
def State.emitLine (s : State) (bytes : List Byte) : State := s.txEmit (bytes ++ s.cfg.eol)

/-- `ChangeLine(k, c, w)` (R178). -/
def changeLine (k c : Nat) (w : Half) (s : State) : Out :=
  withModule k s fun m =>
    if c < m.nch then .next (s.emitLine (reportBytes s.cfg kindChange m.letter c w)) else .fault .noSuchChannel

/-- `FullLine(k, c)` (R179): it shows the held `last_width`. -/
def fullLine (k c : Nat) (s : State) : Out :=
  withModule k s fun m =>
    withChannel k c s fun x => .next (s.emitLine (reportBytes s.cfg kindFull m.letter c x.lastWidth))

/-- `AckLine(op, payload)` (R180): the frame's bytes as received. -/
def ackLine (op : Byte) (payload : List Byte) (s : State) : State := s.emitLine (op :: payload)

/-! ## Command handlers (44_modules R196, R197) -/

/-- The body of SERVO_RAW (R196): E-INDEX drops the frame; else the write, then the acknowledgment. -/
def servoRawHandler (op b val : Byte) (s : State) : Out :=
  if idxOk s.cfg b s.cfg.nservo then
    .next (ackLine op [b, val] (s.servoWrite (unindex s.cfg b) (zext16 val) false))
  else drop .index s

/-- The body of SERVO_HEX (R197): E-INDEX and E-HEX drop the frame; else the write, then the acknowledgment with the
digits as received. -/
def servoHexHandler (op b h3 h2 h1 h0 : Byte) (s : State) : Out :=
  if idxOk s.cfg b s.cfg.nservo then
    match hexdec4 h3 h2 h1 h0 with
    | some v => .next (ackLine op [b, h3, h2, h1, h0] (s.servoWrite (unindex s.cfg b) v true))
    | none => drop .hex s
  else drop .index s

/-- A handler of a module outside the block: it emits whole lines of free content and draws a fresh free value
(42_command_dispatcher R149, 44_modules R208; log 10). -/
def externalHandler (n : Nat) (op : Byte) (payload : List Byte) (s : State) : State :=
  { (s.txEmit ((Config.externalLines n s.freeCount op payload).map (· ++ s.cfg.eol)).flatten) with
    freeCount := s.freeCount + 1 }

/-- `run handler(op, payload)` (42_command_dispatcher R146). A payload of a length the handler does not take needs an
ill-formed entry or a short buffer; nothing then happens. -/
def runHandler (h : Handler) (op : Byte) (payload : List Byte) (s : State) : Out :=
  match h, payload with
  | .servoRaw, [b, val] => servoRawHandler op b val s
  | .servoHex, [b, h3, h2, h1, h0] => servoHexHandler op b h3 h2 h1 h0 s
  | .external n, p => .next (externalHandler n op p s)
  | _, _ => notEnabled s

end Sys2Proof.Machine
end

