-- ==== Sys2Proof/Machine/Dispatcher.lean ====
section
/-! DEFINITION. The command dispatcher: RX_BYTE, OP_DISPATCH, PAYLOAD_BYTE, FRAME_TIMEOUT, DISPATCH_EXEC and the
discarded byte UNREGISTERED (42_command_dispatcher R140 to R151). -/

namespace Sys2Proof.Machine

/-- RX_BYTE (R141): enabled when `|rxq| < RXQ_DEPTH`; a byte offered while `rx_ready` is low is not taken (log 15). -/
def execRxByte (d : Byte) (s : State) : Out := if s.rxReady then .next (s.rxPush d) else notEnabled s

/-- The registered case of OP_DISPATCH: entry `e` at position `i` starts a frame (R142). -/
def beginFrame (i : Nat) (e : RegEntry) (s : State) : State :=
  { s with
    cur := i
    cnt := 0
    frameT0 := s.now
    mstate := .inDispatch
    dstate := if e.len = 0 then .dispatching else .awaitingPayload }

/-- OP_DISPATCH (R142): enabled when `mstate = Idle`, else ignored (R147). It examines one byte at most. -/
def execOpDispatch (s : State) : Out :=
  if s.mstate = .idle then
    match s.rxPop with
    | none => .next s
    | some (b, s1) =>
      match lookup s.cfg b with
      | none => drop .unknownOpcode s1
      | some (i, e) => .next (beginFrame i e s1)
  else ignored s

/-- UNREGISTERED (30_encoding R83): the byte is read in AwaitingOpcode, that is by an OP_DISPATCH of the idle main
context, and discarded. It happens only where that byte is the oldest one and matches no entry (log 9). -/
def execUnregistered (b : Byte) (s : State) : Out :=
  if s.mstate = .idle ∧ isUnregistered s.cfg b then
    match s.rxPop with
    | some (b', s1) => if b' = b then drop .unknownOpcode s1 else notEnabled s
    | none => notEnabled s
  else notEnabled s

/-- PAYLOAD_BYTE (R144): enabled when `dstate = AwaitingPayload` and `rxq` is not empty. -/
def execPayloadByte (s : State) : Out :=
  if s.dstate = .awaitingPayload then
    match s.rxPop with
    | none => notEnabled s
    | some (b, s1) =>
      withEntry s fun e =>
        .next { s1 with
          buf := s1.buf.set s1.cnt b
          cnt := s1.cnt + 1
          dstate := if s1.cnt + 1 = e.len then .dispatching else s1.dstate }
  else notEnabled s

/-- The enabling condition of FRAME_TIMEOUT (R145). -/
def State.timeoutEnabled (s : State) : Bool :=
  decide (s.dstate = .awaitingPayload) && s.rxq.isEmpty && deadlinePassed s.cfg s.timer s.frameT0

/-- FRAME_TIMEOUT (R145): the partial frame is discarded; it is the handling of E-STARVED. -/
def execFrameTimeout (s : State) : Out :=
  if s.timeoutEnabled then drop .starved (s.setMain .awaitingOpcode .idle) else notEnabled s

/-- The payload of the frame in progress, `[buf[0], ..., buf[REG[cur].len - 1]]` (R146). -/
def State.payload (s : State) (e : RegEntry) : List Byte := s.buf.take e.len

/-- DISPATCH_EXEC (R146): enabled when `dstate = Dispatching`; the one handler runs to completion inside it. -/
def execDispatchExec (s : State) : Out :=
  if s.dstate = .dispatching then
    withEntry s fun e =>
      andThen (runHandler e.handler e.opcode (s.payload e) s) fun t => .next (t.setMain .awaitingOpcode .idle)
  else notEnabled s

end Sys2Proof.Machine
end

