-- ==== Sys2Proof/Machine/Edge.lean ====
section
/-! DEFINITION. The counter and the edge capture: TIMER_TICK, RISE, FALL (40_edge_timer R100 to R105). -/

namespace Sys2Proof.Machine

/-- TIMER_TICK (R100). -/
def execTimerTick (s : State) : Out := .next { s with timer := incWrap s.cfg.tsw s.timer }

/-- RISE (R102). -/
def execRise (k c : Nat) (s : State) : Out :=
  withChannel k c s fun x => .next (s.setChan k c (x.stampRise s.now))

/-- FALL (R103). -/
def execFall (k c : Nat) (s : State) : Out :=
  withChannel k c s fun x => .next (s.setChan k c (x.stampFall s.now))

end Sys2Proof.Machine
end

