-- ==== Sys2Proof/Machine/Encoder.lean ====
section
/-! DEFINITION. The report encoder: HEXDIGIT, HEX2, HEX4, HEX8, HEXVAL, HEXDEC4, TX_LINE and the lines CHANGE_REPORT,
FULL_REPORT, ACK_SERVO_RAW, ACK_SERVO_HEX (43_report_encoder R170 to R180). The codec rows are pure; executed directly
they leave their value in `result` (log 7). -/

namespace Sys2Proof.Machine

/-- HEXDIGIT (R170). -/
def execHexdigit (n : Nibble) (s : State) : Out := .next (s.setResult (.byte (hexdigit n)))

/-- HEX2 (R171). -/
def execHex2 (b : Byte) (s : State) : Out := .next (s.setResult (.bytes (hex2 b)))

/-- HEX4 (R172). -/
def execHex4 (v : Half) (s : State) : Out := .next (s.setResult (.bytes (hex4 v)))

/-- HEX8 (R173). -/
def execHex8 (v : Quad) (s : State) : Out := .next (s.setResult (.bytes (hex8 v)))

/-- HEXVAL (R174). -/
def execHexval (ch : Byte) (s : State) : Out := .next (s.setResult (.nibble (hexval ch)))

/-- HEXDEC4 (R175). -/
def execHexdec4 (h3 h2 h1 h0 : Byte) (s : State) : Out := .next (s.setResult (.half (hexdec4 h3 h2 h1 h0)))

/-- TX_LINE (R177). -/
def execTxLine (bytes : List Byte) (s : State) : Out := .next (s.emitLine bytes)

/-- CHANGE_REPORT (R178). -/
def execChangeReport (k c : Nat) (w : Half) (s : State) : Out := changeLine k c w s

/-- FULL_REPORT (R179). -/
def execFullReport (k c : Nat) (s : State) : Out := fullLine k c s

/-- ACK_SERVO_RAW (R180): the SERVO_RAW frame echoed. -/
def execAckServoRaw (b val : Byte) (s : State) : Out := .next (ackLine opServoRaw [b, val] s)

/-- ACK_SERVO_HEX (R180): the SERVO_HEX frame echoed, letter case kept. -/
def execAckServoHex (b h3 h2 h1 h0 : Byte) (s : State) : Out :=
  .next (ackLine s.cfg.opServoHex [b, h3, h2, h1, h0] s)

end Sys2Proof.Machine
end

