-- ==== Sys2Proof/Machine/Modules.lean ====
section
/-! DEFINITION. The pulse modules and the servo commands: POLL (41_pulse_channel R120), UPDATE_CHANNEL, OP_UPDATE,
UPDATE_STEP, OP_REPORT, SERVO_RAW, SERVO_HEX (44_modules R192 to R197). -/

namespace Sys2Proof.Machine

/-- `UpdateChannel(k, c)` (44_modules R192): POLL, and a change report when the consumed width differs from the width
held before. -/
def observeChannel (k c : Nat) (s : State) : Out :=
  withChannel k c s fun x =>
    match x.poll s.cfg with
    | (_, none) => .next s
    | (x', some w) =>
      if w ≠ x.lastWidth then changeLine k c w (s.setChan k c x') else .next (s.setChan k c x')

/-- Where the sequencer goes after channel `c` of `PM[k]` was polled (44_modules R193). -/
def advanceUpdate (k c : Nat) (s : State) : Out :=
  withModule k s fun m =>
    .next { s with mstate := if c + 1 < m.nch then .inUpdate k (c + 1) else .idle }

/-- `FullLine(k, c)` for every channel number of a list, in its order (44_modules R194). -/
def fullLines (k : Nat) : List Nat → State → Out
  | [], s => .next s
  | c :: cs, s => andThen (fullLine k c s) (fullLines k cs)

/-- POLL (41_pulse_channel R120): one atomic step. -/
def execPoll (k c : Nat) (s : State) : Out :=
  withChannel k c s fun x =>
    match x.poll s.cfg with
    | (_, none) => .next (s.setResult (.poll none))
    | (x', some w) => .next ((s.setChan k c x').setResult (.poll (some w)))

/-- UPDATE_CHANNEL (R192). -/
def execUpdateChannel (k c : Nat) (s : State) : Out := observeChannel k c s

/-- OP_UPDATE (R193): enabled when `mstate = Idle`, else ignored (42_command_dispatcher R147). -/
def execOpUpdate (k : Nat) (s : State) : Out :=
  withModule k s fun _ =>
    if s.mstate = .idle then .next { s with mstate := .inUpdate k 0 } else ignored s

/-- UPDATE_STEP (R193): enabled when `mstate = InUpdate(k, c)`. -/
def execUpdateStep (s : State) : Out :=
  match s.mstate with
  | .inUpdate k c => andThen (observeChannel k c s) (advanceUpdate k c)
  | _ => notEnabled s

/-- OP_REPORT (R194): one full line per channel, ascending, in one atomic operation. -/
def execOpReport (k : Nat) (s : State) : Out :=
  withModule k s fun m =>
    if s.mstate = .idle then fullLines k (List.range m.nch) s else ignored s

/-- SERVO_RAW (R196): what the routed frame does (log 8). -/
def execServoRaw (b val : Byte) (s : State) : Out := servoRawHandler opServoRaw b val s

/-- SERVO_HEX (R197): what the routed frame does (log 8). -/
def execServoHex (b h3 h2 h1 h0 : Byte) (s : State) : Out :=
  servoHexHandler s.cfg.opServoHex b h3 h2 h1 h0 s

end Sys2Proof.Machine
end

