-- ==== Sys2Proof/Machine/Reset.lean ====
section
/-! DEFINITION. RESET (70_reset_and_hazards R250): every state element takes the value of 10_state R40. -/

namespace Sys2Proof.Machine

/-- RESET (R250). `cur`, `buf` and `frame_t0` are unspecified after it: free values inside their ranges (log 4). The
configuration and the model's own `pending` and `result` are not the block's state and stay (log 22). -/
def execReset (s : State) : Out :=
  .next { State.resetOf s.cfg with
    cur := Config.freeCur s.freeCount % s.cfg.reg.length
    buf := (List.range s.cfg.maxLen).map (Config.freeBufByte s.freeCount)
    frameT0 := Config.freeFrameT0 s.freeCount % 2 ^ s.cfg.tsw
    pending := s.pending
    result := s.result
    freeCount := s.freeCount + 1 }

end Sys2Proof.Machine
end

