-- ==== Sys2Proof/Machine/Dispatch.lean ====
section
/-! DEFINITION. One arm per instruction of the opcode table, each a direct call of its meaning. -/

namespace Sys2Proof.Machine

def exec (i : Instr) (s : State) : Host.Outcome State Fault Refusal :=
  match i with
  -- command frames
  | .servoRaw b val => Sys2Proof.Machine.execServoRaw b val s
  | .servoHex b h3 h2 h1 h0 => Sys2Proof.Machine.execServoHex b h3 h2 h1 h0 s
  | .unregistered b => Sys2Proof.Machine.execUnregistered b s
  -- lines
  | .changeReport k c w => Sys2Proof.Machine.execChangeReport k c w s
  | .fullReport k c => Sys2Proof.Machine.execFullReport k c s
  | .ackServoRaw b val => Sys2Proof.Machine.execAckServoRaw b val s
  | .ackServoHex b h3 h2 h1 h0 => Sys2Proof.Machine.execAckServoHex b h3 h2 h1 h0 s
  -- port strobes
  | .timerTick => Sys2Proof.Machine.execTimerTick s
  | .rise k c => Sys2Proof.Machine.execRise k c s
  | .fall k c => Sys2Proof.Machine.execFall k c s
  | .rxByte d => Sys2Proof.Machine.execRxByte d s
  | .opDispatch => Sys2Proof.Machine.execOpDispatch s
  | .opUpdate k => Sys2Proof.Machine.execOpUpdate k s
  | .opReport k => Sys2Proof.Machine.execOpReport k s
  | .reset => Sys2Proof.Machine.execReset s
  -- internal micro-steps
  | .payloadByte => Sys2Proof.Machine.execPayloadByte s
  | .frameTimeout => Sys2Proof.Machine.execFrameTimeout s
  | .dispatchExec => Sys2Proof.Machine.execDispatchExec s
  | .updateStep => Sys2Proof.Machine.execUpdateStep s
  -- called functions
  | .poll k c => Sys2Proof.Machine.execPoll k c s
  | .updateChannel k c => Sys2Proof.Machine.execUpdateChannel k c s
  | .hexdigit n => Sys2Proof.Machine.execHexdigit n s
  | .hex2 b => Sys2Proof.Machine.execHex2 b s
  | .hex4 v => Sys2Proof.Machine.execHex4 v s
  | .hex8 v => Sys2Proof.Machine.execHex8 v s
  | .hexval ch => Sys2Proof.Machine.execHexval ch s
  | .hexdec4 h3 h2 h1 h0 => Sys2Proof.Machine.execHexdec4 h3 h2 h1 h0 s
  | .txLine bytes => Sys2Proof.Machine.execTxLine bytes s

end Sys2Proof.Machine
end

