-- ==== Sys2Proof/Machine/Fetch.lean ====
section
/-! DEFINITION. Which operation takes the next place in the total order (20_memory R58, log 5), and how a table word is
put there (log 18). -/

namespace Sys2Proof.Machine

/-- The internal micro-step whose enabling condition holds; in a state of the block at most one does (decision D16,
10_state R41). -/
def State.enabledMicro (s : State) : Option MicroStep :=
  match s.mstate with
  | .inUpdate _ _ => some .updateStep
  | _ =>
    match s.dstate with
    | .awaitingOpcode => none
    | .dispatching => some .dispatchExec
    | .awaitingPayload =>
      if s.rxq.isEmpty then (if s.timeoutEnabled then some .frameTimeout else none) else some .payloadByte

/-- What comes next: the oldest pending signal, else the block's own enabled micro-step, else nothing. -/
def State.fetch (s : State) : Option (Signal × State) :=
  match s.pending with
  | g :: rest => some (g, { s with pending := rest })
  | [] =>
    match s.enabledMicro with
    | some m => some (.internal m, s)
    | none => none

/-- `s` with a signal in front of all pending ones. -/
def State.push (s : State) (g : Signal) : State := { s with pending := g :: s.pending }

/-- `s` with the complete frame `op :: payload` collected and its DISPATCH_EXEC next: what OP_DISPATCH and the
PAYLOAD_BYTEs of that frame leave. -/
def State.loadFrame (s : State) (op : Byte) (payload : List Byte) : State :=
  match lookup s.cfg op with
  | none => s
  | some (i, e) =>
    ({ s with
        cur := i
        cnt := e.len
        buf := payload ++ s.buf.drop payload.length
        dstate := .dispatching
        mstate := .inDispatch }).push (.internal .dispatchExec)

/-- `s` with the main context idle, `b` the oldest received byte and an OP_DISPATCH next. -/
def State.loadOpcodeByte (s : State) (b : Byte) : State :=
  ({ s with dstate := .awaitingOpcode, mstate := .idle, rxq := b :: s.rxq }).push (.port .reqDispatch 1)

/-- `s` with an unconsumed sample of width `w`, different from the held one, in `ch[k][c]` and that channel's
UPDATE_STEP next: the operation that emits the change report. -/
def State.loadSample (s : State) (k c : Nat) (w : Half) : State :=
  ({ s.setChan k c ⟨0, w.toNat, true, w + 1⟩ with dstate := .awaitingOpcode, mstate := .inUpdate k c }).push
    (.internal .updateStep)

/-- Put an instruction where `step` fetches. A frame is loaded as collected, a discarded byte as received, a report
line as the operation that emits it; an instruction with a signal of its own is that signal; the others cannot be
started from outside the block. -/
def State.loadInstr (s : State) (i : Instr) : State :=
  match i with
  | .servoRaw b val => s.loadFrame opServoRaw [b, val]
  | .servoHex b h3 h2 h1 h0 => s.loadFrame s.cfg.opServoHex [b, h3, h2, h1, h0]
  | .unregistered b => s.loadOpcodeByte b
  | .changeReport k c w => s.loadSample k c w
  | .fullReport k _ => ({ s with mstate := .idle, dstate := .awaitingOpcode }).push (.port (.reqReport k) 1)
  | j =>
    match encode s.cfg 0#16 j with
    | some (.signal g) => s.push g
    | _ => s

/-- Put a table word where `step` fetches. -/
def State.loadWord (s : State) (nbits w : Nat) : State :=
  match decodeWord s.cfg nbits w with
  | some i => s.loadInstr i
  | none => s

end Sys2Proof.Machine
end

