-- ==== Sys2Proof/Machine/Step.lean ====
section
/-! DEFINITION. One step of the block: the next operation of the total order, decoded and executed. -/

namespace Sys2Proof.Machine

/-- One step. An ill-formed configuration is refused (00_scope R8, log 12). With nothing pending and no micro-step
enabled the block waits and nothing changes (70_reset_and_hazards R272). A strobe that is low is no event. -/
def step (s : State) : Host.Outcome State Fault Refusal :=
  if s.cfg.wf then
    match s.fetch with
    | none => .next s
    | some (g, s1) =>
      match decodeSignal s.cfg g with
      | .ok i => exec i s1
      | .error .strobeLow => .next s1
      | .error e => .refused (.illFormedSignal e)
  else .refused .illFormedConfig

/-- `s` with the instruction of a table word where `step` fetches its next operation (log 18). -/
def State.withFetchWord (s : State) (nbits w : Nat) : State := s.loadWord nbits w

end Sys2Proof.Machine
end

