-- ==== Sys2Proof/Machine/Clock.lean ====
section
/-! DEFINITION. What one `clk` cycle of a clocked implementation means: its inputs as the signals of the serial order
of 60_exceptions R229 (with 20_memory R61 and 40_edge_timer R105). The event model itself has no cycles (log 21). -/

namespace Sys2Proof.Machine

/-- The inputs of one cycle (10_state R39): a strobe is high when it is `true` or its port's indices are listed.
`micro` says whether an enabled micro-step of the main context is taken in this cycle. -/
structure CycleInputs where
  rst : Bool
  micro : Bool
  reqDispatch : Bool
  reqUpdate : List Nat
  reqReport : List Nat
  rise : List (Nat × Nat)
  fall : List (Nat × Nat)
  rx : Option Byte
  tick : Bool
  deriving DecidableEq, Repr

/-- The channels of module number `k` and of the modules after it, ascending. -/
def channelsFrom : Nat → List PulseModule → List (Nat × Nat)
  | _, [] => []
  | k, m :: ms => (List.range m.nch).map (fun c => (k, c)) ++ channelsFrom (k + 1) ms

/-- Every channel of the block, ascending in (`k`, `c`). -/
def allChannels (c : Config) : List (Nat × Nat) := channelsFrom 0 c.pm

/-- The first harness request of a cycle: `req_dispatch`, then `req_update` ascending, then `req_report` ascending;
the others are ignored because `busy` rises (R229). -/
def firstRequest (c : Config) (x : CycleInputs) : List Signal :=
  ((if x.reqDispatch then [Signal.port .reqDispatch 1] else []) ++
    ((List.range c.pm.length).filter (x.reqUpdate.contains ·)).map (fun k => Signal.port (.reqUpdate k) 1) ++
    ((List.range c.pm.length).filter (x.reqReport.contains ·)).map (fun k => Signal.port (.reqReport k) 1)).take 1

/-- The main context's part of a cycle: a busy context takes its micro-step, an idle one the first request. -/
def State.mainSignals (s : State) (x : CycleInputs) : List Signal :=
  if s.busy then (if x.micro then s.enabledMicro.toList.map Signal.internal else []) else firstRequest s.cfg x

/-- The serial order of one cycle (R229): RESET alone, or main context, RISEs, FALLs, RX_BYTE, TIMER_TICK. A byte is
taken only when `rx_ready` is high at the cycle's start. -/
def State.serialise (s : State) (x : CycleInputs) : List Signal :=
  if x.rst then [Signal.port .rst 1]
  else
    s.mainSignals x ++
    ((allChannels s.cfg).filter (x.rise.contains ·)).map (fun p => Signal.port (.edgeRise p.1 p.2) 1) ++
    ((allChannels s.cfg).filter (x.fall.contains ·)).map (fun p => Signal.port (.edgeFall p.1 p.2) 1) ++
    (match x.rx with
      | some d => if s.rxReady then [Signal.port .rx (256 + d.toNat)] else []
      | none => []) ++
    (if x.tick then [Signal.port .tmrTick 1] else [])

/-- `s` with the inputs of one cycle pending. -/
def State.clockIn (s : State) (x : CycleInputs) : State := { s with pending := s.pending ++ s.serialise x }

end Sys2Proof.Machine
end

