-- ==== Sys2Proof/Safety.lean ====
section
/-! DEFINITION. What counts as a state of the block: the invariant of 10_state R41 with the widths and ranges of R20 to
R37, and the classes of states of 70_reset_and_hazards R272. -/

namespace Sys2Proof.Machine

/-- The channel registers have the shape the configuration gives, and one list per module. -/
def State.ShapeOk (s : State) : Prop :=
  s.ch.length = s.cfg.pm.length ∧
  ∀ (k : Nat) (m : PulseModule) (row : List Channel), s.cfg.pm[k]? = some m → s.ch[k]? = some row → row.length = m.nch

/-- Every register of TSW bits holds a TSW-bit value (10_state R21, R22, R26, R33). -/
def State.WidthsOk (s : State) : Prop :=
  s.timer < 2 ^ s.cfg.tsw ∧ s.frameT0 < 2 ^ s.cfg.tsw ∧
  ∀ (k c : Nat) (x : Channel), s.chan? k c = some x → x.rising < 2 ^ s.cfg.tsw ∧ x.falling < 2 ^ s.cfg.tsw

/-- 10_state R41 (a). -/
def State.ModesAgree (s : State) : Prop := s.mstate = .inDispatch ↔ s.dstate ≠ .awaitingOpcode

/-- `InUpdate(k, c)` names a channel of the block (10_state R34). -/
def State.UpdateInRange (s : State) : Prop := ∀ (k c : Nat), s.mstate = .inUpdate k c → s.cfg.hasChannel k c = true

/-- 10_state R41 (b), with the ranges of `cur`, `cnt` and `buf` (R30 to R32). -/
def State.FrameOk (s : State) : Prop :=
  s.cur < s.cfg.reg.length ∧ s.cnt ≤ s.cfg.maxLen ∧ s.buf.length = s.cfg.maxLen ∧
  ∀ (e : RegEntry), s.cfg.reg[s.cur]? = some e →
    (s.dstate = .awaitingPayload → s.cnt < e.len) ∧ (s.dstate = .dispatching → s.cnt = e.len)

/-- 10_state R41 (c), as far as a state shows it: a held width is the initial one or a plausible one. -/
def State.HeldWidthsOk (s : State) : Prop :=
  ∀ (k c : Nat) (m : PulseModule) (x : Channel), s.cfg.pm[k]? = some m → s.chan? k c = some x →
    x.lastWidth = m.initWidth ∨ x.lastWidth.toNat ≤ s.cfg.widthMax

/-- 10_state R41 (d): `tx` is a concatenation of whole lines, each ending in `EOL`. -/
def State.WholeLines (s : State) : Prop := ∃ lines : List (List Byte), s.tx = (lines.map (· ++ s.cfg.eol)).flatten

/-- 10_state R41 (e). -/
def State.RxqOk (s : State) : Prop := ∀ (d : Nat), s.cfg.rxqDepth = some d → s.rxq.length ≤ d

/-- The index of a servo write is an internal servo index, `0..NSERVO-1` (10_state R37). -/
def State.ServoOk (s : State) : Prop := ∀ w ∈ s.servoOut, w.idx < s.cfg.nservo

/-- The states of the block: everything R41 and the ranges of R20 to R37 say of a reachable state. -/
structure State.Inv (s : State) : Prop where
  config : s.cfg.wf = true
  shape : s.ShapeOk
  widths : s.WidthsOk
  modes : s.ModesAgree
  update : s.UpdateInRange
  frame : s.FrameOk
  held : s.HeldWidthsOk
  lines : s.WholeLines
  rxq : s.RxqOk
  servo : s.ServoOk

/-- Quiescent (70_reset_and_hazards R272): `mstate = Idle`. -/
def State.Quiescent (s : State) : Prop := s.mstate = .idle

/-- Busy (R272): `mstate != Idle` and some micro-step is enabled. -/
def State.Busy (s : State) : Prop := s.mstate ≠ .idle ∧ s.enabledMicro ≠ none

/-- Stuck (R272): a frame is starved and its deadline has not passed. -/
def State.Stuck (s : State) : Prop :=
  s.mstate = .inDispatch ∧ s.dstate = .awaitingPayload ∧ s.rxq = [] ∧ s.timeoutEnabled = false

/-- Every pending signal is one the block's ports can carry. -/
def State.PendingOk (s : State) : Prop := ∀ g ∈ s.pending, ∃ i, decodeSignal s.cfg g = .ok i

/-- A safe outcome: a next state that is a state of the block (R272: no operation faults). -/
def SafeOutcome (o : Out) : Prop := ∃ t, o = .next t ∧ t.Inv

end Sys2Proof.Machine
end

