-- ==== Sys2Proof/Certificates/Slice0/Obligations.lean ====
section
/-! DEFINITION. The statements for the provers. Each docstring names the rules of spec/ it formalises, or says what of
the model's own it rests on. `{ s with … }` on the right of `next` is the frame: every field not named is unchanged. -/

namespace Sys2Proof.Machine

/-- A sequence of operations, each on the state left by the one before (00_scope R12). -/
def execAll : List Instr → State → Out
  | [], s => .next s
  | i :: is, s => andThen (exec i s) (execAll is)

/-- Every channel but (`k`, `c`) is the same in `t` as in `s`. -/
def OtherChannelsSame (k c : Nat) (s t : State) : Prop :=
  ∀ k' c', (k', c') ≠ (k, c) → t.chan? k' c' = s.chan? k' c'

/-- The difference of 41_pulse_channel R121 in its own words: `f - r` when `f >= r`, else `f - r + 2^TSW`. -/
def stampDiff (tsw f r : Nat) : Nat := if r ≤ f then f - r else f + 2 ^ tsw - r

/-- The byte of a hex digit of value `n` (43_report_encoder R170's table). -/
def asciiDigit (n : Nat) : Byte := if n ≤ 9 then BitVec.ofNat 8 (0x30 + n) else BitVec.ofNat 8 (0x37 + n)

/-- The four digits of a 16-bit value, most significant first (20_memory R54). -/
def digits4 (w : Half) : List Byte :=
  [asciiDigit (w.toNat / 4096 % 16), asciiDigit (w.toNat / 256 % 16), asciiDigit (w.toNat / 16 % 16),
    asciiDigit (w.toNat % 16)]

/-- The bytes of a report line with its EOL (30_encoding R78, R79). -/
def reportLine (cfg : Config) (kind : Byte) (m : PulseModule) (c : Nat) (w : Half) : List Byte :=
  [kind, m.letter, BitVec.ofNat 8 (cfg.indexOffset + c)] ++ digits4 w ++ cfg.eol

/-- A byte that 43_report_encoder R174 gives the value `n`. -/
def DigitOf (ch : Byte) (n : Nat) : Prop :=
  (0x30 ≤ ch.toNat ∧ ch.toNat ≤ 0x39 ∧ n = ch.toNat - 0x30) ∨
  (0x41 ≤ ch.toNat ∧ ch.toNat ≤ 0x46 ∧ n = ch.toNat - 0x37) ∨
  (0x61 ≤ ch.toNat ∧ ch.toNat ≤ 0x66 ∧ n = ch.toNat - 0x57)

/-- A byte that is a hex digit in either case (30_encoding R76). -/
def IsDigit (ch : Byte) : Prop := ∃ n, DigitOf ch n

/-- The edge operations and the operations on one channel that a run of `SamplesReturned…` may hold. -/
def sampleOp : Instr → Bool
  | .rise _ _ => true
  | .fall _ _ => true
  | .poll _ _ => true
  | .timerTick => true
  | .rxByte _ => true
  | _ => false

/-- How many polls of (`k`, `c`) in a run returned `Some`. -/
def somesOf (k c : Nat) : List Instr → State → Nat
  | [], _ => 0
  | i :: is, s =>
    match exec i s with
    | .next t =>
      (match i, t.result with
        | .poll k' c', .poll (some _) => if (k', c') = (k, c) then 1 else 0
        | _, _ => 0) + somesOf k c is t
    | _ => 0

/-- The first of RISE, FALL, POLL of (`k`, `c`) in a list is a POLL. -/
def pollComesFirst (k c : Nat) : List Instr → Bool
  | [] => false
  | i :: is =>
    if i = .poll k c then true
    else if i = .rise k c ∨ i = .fall k c then false
    else pollComesFirst k c is

/-- How many FALLs of (`k`, `c`) are followed by a POLL of it before its next RISE or FALL. -/
def fallsPolled (k c : Nat) : List Instr → Nat
  | [] => 0
  | i :: is => (if i = .fall k c ∧ pollComesFirst k c is then 1 else 0) + fallsPolled k c is

/-- An operation that polls (`k`, `c`) in state `s`. -/
def PollsChannel (i : Instr) (s : State) (k c : Nat) : Prop :=
  i = .poll k c ∨ i = .updateChannel k c ∨ (i = .updateStep ∧ s.mstate = .inUpdate k c)

/-- The state after the complete frame of entry `e` at position `i` has been collected (42_command_dispatcher R142,
R144): opcode and payload are gone from `rxq`, the payload stands in front of `buf`. -/
def collected (s : State) (i : Nat) (e : RegEntry) (payload rest : List Byte) : State :=
  { s with
    rxq := rest
    cur := i
    cnt := e.len
    buf := payload ++ s.buf.drop e.len
    frameT0 := s.timer
    dstate := .dispatching
    mstate := .inDispatch }

/-- The main context's operation of a clock cycle (60_exceptions R229): a busy context's enabled micro-step, if it takes
one in this cycle; of an idle one's harness requests the first in the order `req_dispatch`, `req_update` ascending,
`req_report` ascending. -/
def CycleMain (s : State) (x : CycleInputs) (main : List Instr) : Prop :=
  (s.mstate ≠ .idle → main = if x.micro then s.enabledMicro.toList.map MicroStep.instr else []) ∧
  (s.mstate = .idle → x.reqDispatch = true → main = [.opDispatch]) ∧
  (s.mstate = .idle → x.reqDispatch = false →
    (∀ k, k < s.cfg.pm.length → k ∈ x.reqUpdate → (∀ j, j < k → j ∉ x.reqUpdate) → main = [.opUpdate k]) ∧
    ((∀ j, j < s.cfg.pm.length → j ∉ x.reqUpdate) →
      (∀ k, k < s.cfg.pm.length → k ∈ x.reqReport → (∀ j, j < k → j ∉ x.reqReport) → main = [.opReport k]) ∧
      ((∀ j, j < s.cfg.pm.length → j ∉ x.reqReport) → main = [])))

/-- `ps` lists the channels of the block whose strobe is high, each once, ascending in (`k`, `c`) (60_exceptions
R229). -/
def EdgesInOrder (c : Config) (strobes ps : List (Nat × Nat)) : Prop :=
  ps.Pairwise (fun p q => p.1 < q.1 ∨ (p.1 = q.1 ∧ p.2 < q.2)) ∧
  ∀ p, p ∈ ps ↔ c.hasChannel p.1 p.2 = true ∧ p ∈ strobes

/-- The operations of a clock cycle in the serial order of 60_exceptions R229: main context, RISEs, FALLs, RX_BYTE
(taken when `rx_ready` is high, 10_state R39), TIMER_TICK. -/
def cycleOps (s : State) (x : CycleInputs) (main : List Instr) (rises falls : List (Nat × Nat)) : List Instr :=
  main ++ rises.map (fun p => .rise p.1 p.2) ++ falls.map (fun p => .fall p.1 p.2) ++
    (if s.rxReady then x.rx.toList.map .rxByte else []) ++ (if x.tick then [.timerTick] else [])

end Sys2Proof.Machine

open Sys2Proof Sys2Proof.Machine

/-! ## Timer and edges -/

/-- 40_edge_timer R100, always enabled, started by the strobe `tmr_tick`. -/
def Obligations.TimerTickAddsOneAndWraps : Prop :=
  ∀ s : State, decodeSignal s.cfg (.port .tmrTick 1) = .ok .timerTick ∧
    ∃ v, exec .timerTick s = .next { s with timer := v } ∧
    v = (s.timer + 1) % 2 ^ s.cfg.tsw ∧ (s.timer = 2 ^ s.cfg.tsw - 1 → v = 0)

/-- 40_edge_timer R102, started by the strobe `edge_rise[k][c]`. No premise on the main context: the operation is
always enabled. -/
def Obligations.RiseStampsRisingAndClearsFlag : Prop :=
  ∀ (s : State) (k c : Nat) (x : Channel), s.chan? k c = some x →
    (s.cfg.hasChannel k c = true → decodeSignal s.cfg (.port (.edgeRise k c) 1) = .ok (.rise k c)) ∧
    ∃ t, exec (.rise k c) s = .next t ∧
      t.chan? k c = some { rising := s.timer, falling := x.falling, hasNew := false, lastWidth := x.lastWidth } ∧
      OtherChannelsSame k c s t ∧ t = { s with ch := t.ch }

/-- 40_edge_timer R103, started by the strobe `edge_fall[k][c]`. No premise on the main context or on an earlier
RISE. -/
def Obligations.FallStampsFallingAndSetsFlag : Prop :=
  ∀ (s : State) (k c : Nat) (x : Channel), s.chan? k c = some x →
    (s.cfg.hasChannel k c = true → decodeSignal s.cfg (.port (.edgeFall k c) 1) = .ok (.fall k c)) ∧
    ∃ t, exec (.fall k c) s = .next t ∧
      t.chan? k c = some { rising := x.rising, falling := s.timer, hasNew := true, lastWidth := x.lastWidth } ∧
      OtherChannelsSame k c s t ∧ t = { s with ch := t.ch }

/-- 20_memory R59: edges of one channel commute with every operation on another channel. -/
def Obligations.EdgesOfDifferentChannelsCommute : Prop :=
  ∀ (s : State) (k c k' c' : Nat) (x x' : Channel),
    (k, c) ≠ (k', c') → s.chan? k c = some x → s.chan? k' c' = some x' →
    ∀ i ∈ [Instr.rise k c, Instr.fall k c],
    ∀ j ∈ [Instr.rise k' c', Instr.fall k' c', Instr.poll k' c', Instr.updateChannel k' c', Instr.fullReport k' c'],
      execAll [i, j] s = execAll [j, i] s

/-- A pair that names no channel, a number that names no module: the channel index space of 20_memory R50 has no such
address, and the operation stops (log 13, the model's choice of a fault). -/
def Obligations.AddressOutsideTheIndexSpacesStops : Prop :=
  (∀ (s : State) (k c : Nat), s.chan? k c = none →
    exec (.rise k c) s = .fault .noSuchChannel ∧ exec (.fall k c) s = .fault .noSuchChannel ∧
    exec (.poll k c) s = .fault .noSuchChannel ∧ exec (.updateChannel k c) s = .fault .noSuchChannel) ∧
  (∀ (s : State) (k c : Nat) (w : Half), s.cfg.pm.length ≤ k →
    exec (.opUpdate k) s = .fault .noSuchModule ∧ exec (.opReport k) s = .fault .noSuchModule ∧
    exec (.changeReport k c w) s = .fault .noSuchModule ∧ exec (.fullReport k c) s = .fault .noSuchModule) ∧
  (∀ (s : State) (k c : Nat) (m : PulseModule) (w : Half), s.cfg.pm[k]? = some m →
    (m.nch ≤ c → exec (.changeReport k c w) s = .fault .noSuchChannel) ∧
    (s.chan? k c = none → exec (.fullReport k c) s = .fault .noSuchChannel))

/-! ## Poll -/

/-- 41_pulse_channel R120: no sample, `None` and no state change; a sample, the flag cleared, the plausible wrapped
difference or else the held width stored and returned. `result` is where the model puts the returned value (log 7). -/
def Obligations.PollConsumesTheSampleAndReturnsItsWidth : Prop :=
  ∀ (s : State) (k c : Nat) (x : Channel), s.chan? k c = some x →
    (x.hasNew = false → exec (.poll k c) s = .next { s with result := .poll none }) ∧
    (x.hasNew = true → x.rising < 2 ^ s.cfg.tsw → x.falling < 2 ^ s.cfg.tsw →
      ∃ (t : State) (w : Half),
        (stampDiff s.cfg.tsw x.falling x.rising ≤ s.cfg.widthMax →
          w = BitVec.ofNat 16 (stampDiff s.cfg.tsw x.falling x.rising)) ∧
        (s.cfg.widthMax < stampDiff s.cfg.tsw x.falling x.rising → w = x.lastWidth) ∧
        exec (.poll k c) s = .next t ∧
        t.chan? k c = some { rising := x.rising, falling := x.falling, hasNew := false, lastWidth := w } ∧
        OtherChannelsSame k c s t ∧ t = { s with ch := t.ch, result := .poll (some w) })

/-- 41_pulse_channel R122: a plausible width loses no bits. -/
def Obligations.PlausibleWidthEqualsTheDifference : Prop :=
  ∀ (s t : State) (k c : Nat) (x y : Channel), s.cfg.wf = true → s.chan? k c = some x → x.hasNew = true →
    x.rising < 2 ^ s.cfg.tsw → x.falling < 2 ^ s.cfg.tsw →
    stampDiff s.cfg.tsw x.falling x.rising ≤ s.cfg.widthMax →
    exec (.poll k c) s = .next t → t.chan? k c = some y →
    y.lastWidth.toNat = stampDiff s.cfg.tsw x.falling x.rising

/-- 41_pulse_channel R124: the second of two polls returns `None` and changes nothing, with a RISE between or not. -/
def Obligations.SecondPollReturnsNone : Prop :=
  ∀ (s t : State) (k c : Nat), exec (.poll k c) s = .next t →
    exec (.poll k c) t = .next { t with result := .poll none } ∧
    ∀ u, exec (.rise k c) t = .next u → exec (.poll k c) u = .next { u with result := .poll none }

/-- 41_pulse_channel R125 (a) and (b): over every run of edges, polls, ticks and received bytes, the number of `Some`
results of a channel is the number of its FALLs polled before the next edge of the channel, counting a sample that was
waiting at the start. -/
def Obligations.SamplesReturnedAreTheFallsPolledInTime : Prop :=
  ∀ (is : List Instr) (s : State) (k c : Nat) (x : Channel), s.ShapeOk → s.chan? k c = some x →
    (∀ i ∈ is, sampleOp i = true ∧ i.wf s.cfg = true) →
    somesOf k c is s = fallsPolled k c is + (if x.hasNew = true ∧ pollComesFirst k c is = true then 1 else 0)

/-- 41_pulse_channel R121 and 40_edge_timer R101: the difference is the number of ticks between RISE and FALL, mod
2^TSW (the aliasing of 70_reset_and_hazards R267), whether or not the timer wrapped between; when it is plausible it is
the width, else the held width stays. -/
def Obligations.PulseWidthIsTheTicksBetweenTheEdges : Prop :=
  ∀ (s : State) (k c n : Nat) (x : Channel), s.chan? k c = some x → s.timer < 2 ^ s.cfg.tsw →
    ∃ t, execAll ([.rise k c] ++ List.replicate n .timerTick ++ [.fall k c, .poll k c]) s = .next t ∧
      t.result = .poll (some (if n % 2 ^ s.cfg.tsw ≤ s.cfg.widthMax then BitVec.ofNat 16 (n % 2 ^ s.cfg.tsw)
        else x.lastWidth))

/-! ## Pulse modules -/

/-- 44_modules R192: POLL, and one change report exactly when a sample was consumed and its width differs from the one
held before. -/
def Obligations.UpdateChannelPollsAndReportsAChange : Prop :=
  ∀ (s : State) (k c : Nat) (x : Channel) (m : PulseModule),
    s.chan? k c = some x → s.cfg.pm[k]? = some m → c < m.nch →
    ∃ (u t : State) (r : Option Half),
      exec (.poll k c) s = .next u ∧ u.result = .poll r ∧ exec (.updateChannel k c) s = .next t ∧
      t = { s with ch := u.ch, tx := t.tx } ∧
      (∀ w, r = some w → w ≠ x.lastWidth → t.tx = s.tx ++ reportLine s.cfg 0x43#8 m c w) ∧
      ((r = none ∨ r = some x.lastWidth) → t.tx = s.tx)

/-- 44_modules R193: OP_UPDATE starts at channel 0 when idle; UPDATE_STEP does UPDATE_CHANNEL on the current channel
and moves on; outside InUpdate it does not happen. -/
def Obligations.UpdateStepObservesOneChannelAndAdvances : Prop :=
  (∀ (s : State) (k : Nat), k < s.cfg.pm.length → s.mstate = .idle →
    exec (.opUpdate k) s = .next { s with mstate := .inUpdate k 0 }) ∧
  (∀ (s : State) (k c : Nat) (x : Channel) (m : PulseModule),
    s.mstate = .inUpdate k c → s.chan? k c = some x → s.cfg.pm[k]? = some m → c < m.nch →
    ∃ u, exec (.updateChannel k c) s = .next u ∧
      exec .updateStep s =
        .next { u with mstate := if c + 1 < m.nch then .inUpdate k (c + 1) else .idle }) ∧
  (∀ s t : State, exec .updateStep s = .next t → t ≠ s → ∃ k c, s.mstate = .inUpdate k c)

/-- 44_modules R193 over the machine's steps: a request `req_update[k]` to the idle block and the micro-steps that
follow are UPDATE_CHANNEL on every channel of the module once, in ascending order. -/
def Obligations.UpdateVisitsEveryChannelOnceAscending : Prop :=
  ∀ (s : State) (k : Nat) (m : PulseModule), s.Inv → s.mstate = .idle → s.cfg.pm[k]? = some m →
    ∃ t, Host.Core.run Sys2Proof.core (m.nch + 1) { s with pending := [.port (.reqUpdate k) 1] } = .next t ∧
      execAll ((List.range m.nch).map (fun c => Instr.updateChannel k c)) { s with pending := [] } = .next t ∧
      t.mstate = .idle ∧ ∀ c y, t.chan? k c = some y → y.hasNew = false

/-- 44_modules R194, started by the strobe `req_report[k]`, enabled when `mstate = Idle`: one full line per channel,
ascending, showing the held widths; nothing else changes. -/
def Obligations.OpReportEmitsOneFullLinePerChannel : Prop :=
  ∀ (s : State) (k : Nat) (m : PulseModule), s.cfg.pm[k]? = some m →
    decodeSignal s.cfg (.port (.reqReport k) 1) = .ok (.opReport k) ∧
    (s.mstate ≠ .idle → exec (.opReport k) s = .next s) ∧
    (∀ w : Nat → Half, s.mstate = .idle →
      (∀ c, c < m.nch → ∃ x, s.chan? k c = some x ∧ x.lastWidth = w c) →
      exec (.opReport k) s = .next { s with
        tx := s.tx ++ ((List.range m.nch).map (fun c => reportLine s.cfg 0x52#8 m c (w c))).flatten })

/-- 44_modules R194 and 70_reset_and_hazards R270: a full report depends on the held widths only; stamps, flags, timer,
buffers and queues do not show in it. -/
def Obligations.FullReportsRevealOnlyHeldWidths : Prop :=
  ∀ (s s' t : State) (k : Nat), s.cfg = s'.cfg → s.mstate = s'.mstate → s.tx = s'.tx →
    (∀ c, (s.chan? k c).map (·.lastWidth) = (s'.chan? k c).map (·.lastWidth)) →
    exec (.opReport k) s = .next t →
    ∃ t', exec (.opReport k) s' = .next t' ∧ t'.tx = t.tx

/-! ## Dispatcher -/

/-- 42_command_dispatcher R141, started by `rx_valid` with the byte on `rx_data`: the byte is appended when there is
room, in every `dstate` and `mstate`; else the operation does not happen. -/
def Obligations.RxByteAppendsToTheReceiveQueue : Prop :=
  ∀ (s : State) (b : Byte),
    decodeSignal s.cfg (.port .rx (256 + b.toNat)) = .ok (.rxByte b) ∧
    ((∀ d, s.cfg.rxqDepth = some d → s.rxq.length < d) →
      exec (.rxByte b) s = .next { s with rxq := s.rxq ++ [b] }) ∧
    (∀ t d, s.cfg.rxqDepth = some d → exec (.rxByte b) s = .next t → t ≠ s → s.rxq.length < d)

/-- 42_command_dispatcher R142 with R143, started by the strobe `req_dispatch`, enabled when `mstate = Idle`: at most
one byte is examined; an unregistered one is discarded; the first entry with the byte's opcode starts a frame. -/
def Obligations.OpDispatchReadsOneOpcodeByte : Prop :=
  ∀ s : State, decodeSignal s.cfg (.port .reqDispatch 1) = .ok .opDispatch ∧
    (s.mstate ≠ .idle → exec .opDispatch s = .next s) ∧
    (s.mstate = .idle → s.rxq = [] → exec .opDispatch s = .next s) ∧
    (∀ b rest, s.mstate = .idle → s.rxq = b :: rest →
      ((∀ e ∈ s.cfg.reg, e.opcode ≠ b) → exec .opDispatch s = .next { s with rxq := rest }) ∧
      (∀ (i : Nat) (e : RegEntry), s.cfg.reg[i]? = some e → e.opcode = b →
        (∀ (j : Nat) (e' : RegEntry), j < i → s.cfg.reg[j]? = some e' → e'.opcode ≠ b) →
        exec .opDispatch s = .next { s with
          rxq := rest
          cur := i
          cnt := 0
          frameT0 := s.timer
          mstate := .inDispatch
          dstate := if e.len = 0 then .dispatching else .awaitingPayload }))

/-- 30_encoding R83: one byte is consumed, nothing else happens; OP_DISPATCH on that byte is this operation. -/
def Obligations.UnregisteredByteIsDiscarded : Prop :=
  ∀ (s : State) (b : Byte) (rest : List Byte), s.mstate = .idle → s.rxq = b :: rest →
    (∀ e ∈ s.cfg.reg, e.opcode ≠ b) →
    exec (.unregistered b) s = .next { s with rxq := rest } ∧ exec .opDispatch s = exec (.unregistered b) s

/-- 42_command_dispatcher R142 corner case 1 and R151: a run of n unregistered bytes takes n OP_DISPATCHes to clear. -/
def Obligations.JunkRunTakesOneDispatchPerByte : Prop :=
  ∀ (junk rest : List Byte) (s : State), s.mstate = .idle → s.rxq = junk ++ rest →
    (∀ b ∈ junk, ∀ e ∈ s.cfg.reg, e.opcode ≠ b) →
    execAll (List.replicate junk.length .opDispatch) s = .next { s with rxq := rest }

/-- 42_command_dispatcher R144: the oldest byte goes to `buf[cnt]`, `cnt` counts it, the last one ends the collection;
the operation happens only while payload is awaited and a byte is there. -/
def Obligations.PayloadByteStoresOneByte : Prop :=
  (∀ (s : State) (e : RegEntry) (b : Byte) (rest : List Byte),
    s.dstate = .awaitingPayload → s.rxq = b :: rest → s.cfg.reg[s.cur]? = some e →
    ∃ t, exec .payloadByte s = .next t ∧
      t = { s with
        rxq := rest
        buf := t.buf
        cnt := s.cnt + 1
        dstate := if s.cnt + 1 = e.len then .dispatching else .awaitingPayload } ∧
      t.buf.length = s.buf.length ∧
      (s.cnt < s.buf.length → t.buf[s.cnt]? = some b) ∧
      ∀ j, j ≠ s.cnt → t.buf[j]? = s.buf[j]?) ∧
  (∀ s t : State, exec .payloadByte s = .next t → t ≠ s → s.dstate = .awaitingPayload ∧ s.rxq ≠ [])

/-- 42_command_dispatcher R145: enabled exactly by its four conditions, it abandons the frame. -/
def Obligations.FrameTimeoutDiscardsAStarvedFrame : Prop :=
  ∀ s : State, s.timer < 2 ^ s.cfg.tsw → s.frameT0 < 2 ^ s.cfg.tsw →
    (∀ limit, s.dstate = .awaitingPayload → s.rxq = [] → s.cfg.payloadTimeout = some limit →
      limit ≤ stampDiff s.cfg.tsw s.timer s.frameT0 →
      exec .frameTimeout s = .next { s with dstate := .awaitingOpcode, mstate := .idle }) ∧
    (∀ t, exec .frameTimeout s = .next t → t ≠ s →
      s.dstate = .awaitingPayload ∧ s.rxq = [] ∧
      ∃ limit, s.cfg.payloadTimeout = some limit ∧ limit ≤ stampDiff s.cfg.tsw s.timer s.frameT0)

/-- 42_command_dispatcher R145 corner cases 1 and 3: counted from the acceptance of the opcode byte, the timeout of a
starved frame becomes enabled at the PAYLOAD_TIMEOUT-th tick and not before. -/
def Obligations.TimeoutIsCountedFromTheOpcodeByte : Prop :=
  ∀ (s t : State) (b : Byte) (i : Nat) (e : RegEntry) (limit n : Nat),
    s.mstate = .idle → s.rxq = [b] → lookup s.cfg b = some (i, e) → 0 < e.len →
    s.cfg.payloadTimeout = some limit → s.timer < 2 ^ s.cfg.tsw → n < 2 ^ s.cfg.tsw →
    execAll (.opDispatch :: List.replicate n .timerTick) s = .next t →
    (t.enabledMicro = some .frameTimeout ↔ limit ≤ n)

/-- 42_command_dispatcher R146: the one handler of the frame's entry runs on exactly its payload, inside the operation,
and the dispatcher and the main context are free again; it happens only in Dispatching. For a handler outside the
block the lines it emits are free (R149; log 10). -/
def Obligations.DispatchExecRunsTheOneHandler : Prop :=
  (∀ (s : State) (b val : Byte) (more : List Byte), s.dstate = .dispatching →
    s.cfg.reg[s.cur]? = some ⟨0x53#8, 2, .servoRaw⟩ → s.buf = b :: val :: more →
    ∃ u, exec (.servoRaw b val) s = .next u ∧
      exec .dispatchExec s = .next { u with dstate := .awaitingOpcode, mstate := .idle }) ∧
  (∀ (s : State) (b h3 h2 h1 h0 : Byte) (more : List Byte), s.dstate = .dispatching →
    s.cfg.reg[s.cur]? = some ⟨s.cfg.opServoHex, 5, .servoHex⟩ → s.buf = b :: h3 :: h2 :: h1 :: h0 :: more →
    ∃ u, exec (.servoHex b h3 h2 h1 h0) s = .next u ∧
      exec .dispatchExec s = .next { u with dstate := .awaitingOpcode, mstate := .idle }) ∧
  (∀ (s : State) (e : RegEntry) (n : Nat), s.dstate = .dispatching →
    s.cfg.reg[s.cur]? = some e → e.handler = .external n →
    ∃ (lines : List (List Byte)) (f : Nat), exec .dispatchExec s = .next { s with
      tx := s.tx ++ (lines.map (· ++ s.cfg.eol)).flatten
      freeCount := f
      dstate := .awaitingOpcode
      mstate := .idle }) ∧
  (∀ s t : State, exec .dispatchExec s = .next t → t ≠ s → s.dstate = .dispatching)

/-- 42_command_dispatcher R150: for every registered opcode, one OP_DISPATCH, as many PAYLOAD_BYTEs as the entry
declares and one DISPATCH_EXEC run the entry's handler once on exactly those bytes, consume exactly the frame, and
return to AwaitingOpcode. -/
def Obligations.FrameIsCollectedAndRoutedOnce : Prop :=
  ∀ (s : State) (o : Byte) (i : Nat) (e : RegEntry) (payload rest : List Byte),
    s.Inv → s.mstate = .idle → lookup s.cfg o = some (i, e) →
    s.rxq = o :: (payload ++ rest) → payload.length = e.len →
    ∃ t u, execAll (.opDispatch :: List.replicate e.len .payloadByte) s = .next (collected s i e payload rest) ∧
      runHandler e.handler o payload (collected s i e payload rest) = .next u ∧
      exec .dispatchExec (collected s i e payload rest) = .next t ∧
      t = { u with dstate := .awaitingOpcode, mstate := .idle } ∧
      t.rxq = rest

/-- 42_command_dispatcher R147 and R148 over the machine's steps, in the order of log 5: after a dispatch request with a
whole frame queued, the block's own micro-steps are exactly that frame's, and then it waits, whatever else is queued. -/
def Obligations.OwnStepsRouteOneFramePerRequest : Prop :=
  ∀ (s : State) (o : Byte) (i : Nat) (e : RegEntry) (payload rest : List Byte),
    s.Inv → s.mstate = .idle → lookup s.cfg o = some (i, e) →
    s.rxq = o :: (payload ++ rest) → payload.length = e.len →
    ∃ t, Host.Core.run Sys2Proof.core (e.len + 1) { s with pending := [.port .reqDispatch 1] } =
        .next { collected s i e payload rest with pending := [] } ∧
      exec .dispatchExec { collected s i e payload rest with pending := [] } = .next t ∧
      t.rxq = rest ∧ t.mstate = .idle ∧
      ∀ n, Host.Core.run Sys2Proof.core (e.len + 2 + n) { s with pending := [.port .reqDispatch 1] } = .next t

/-- 30_encoding R70 to R73 with 42_command_dispatcher R142 to R146: the bytes of an encoded command frame, received and
dispatched by the machine's own steps, do what the frame's instruction does. -/
def Obligations.ReceivedFrameRunsItsInstruction : Prop :=
  ∀ (s : State) (i : Instr) (held : Half) (bytes rest : List Byte),
    s.Inv → s.mstate = .idle → i.wf s.cfg = true → encode s.cfg held i = some (.frame bytes) → 2 ≤ bytes.length →
    s.rxq = bytes ++ rest →
    ∃ t u, Host.Core.run Sys2Proof.core (bytes.length + 1) { s with pending := [.port .reqDispatch 1] } = .next t ∧
      exec i s = .next u ∧
      t = { u with rxq := rest, cur := t.cur, cnt := t.cnt, buf := t.buf, frameT0 := s.timer, pending := [] }

/-- 42_command_dispatcher R140: `dstate` changes only along the table's transitions, under the table's conditions, and
by RESET (70_reset_and_hazards R250). OP_DISPATCH is enabled by `mstate = Idle`, which in a state of 10_state R41 (a) is
the table's from-state AwaitingOpcode (R142); the deadline is that of R145. -/
def Obligations.DispatcherMakesOnlyTheTableTransitions : Prop :=
  ∀ (i : Instr) (s t : State), exec i s = .next t → t.dstate ≠ s.dstate →
    (i = .opDispatch ∧ s.mstate = .idle ∧ (s.ModesAgree → s.dstate = .awaitingOpcode) ∧
      ∃ (b : Byte) (rest : List Byte) (j : Nat) (e : RegEntry),
        s.rxq = b :: rest ∧ s.cfg.reg[j]? = some e ∧ e.opcode = b ∧
        t.dstate = (if e.len = 0 then .dispatching else .awaitingPayload)) ∨
    (i = .payloadByte ∧ s.dstate = .awaitingPayload ∧ t.dstate = .dispatching ∧
      ∃ e : RegEntry, s.cfg.reg[s.cur]? = some e ∧ s.cnt + 1 = e.len) ∨
    (i = .frameTimeout ∧ s.dstate = .awaitingPayload ∧ s.rxq = [] ∧ deadlinePassed s.cfg s.timer s.frameT0 = true ∧
      t.dstate = .awaitingOpcode) ∨
    (i = .dispatchExec ∧ s.dstate = .dispatching ∧ t.dstate = .awaitingOpcode) ∨
    (i = .reset ∧ t.dstate = .awaitingOpcode)

/-- 42_command_dispatcher R147: a request to a busy main context is ignored, not queued. -/
def Obligations.BusyMainContextIgnoresRequests : Prop :=
  ∀ s : State, s.mstate ≠ .idle →
    exec .opDispatch s = .next s ∧
    ∀ k, k < s.cfg.pm.length → exec (.opUpdate k) s = .next s ∧ exec (.opReport k) s = .next s

/-- An operation whose enabling condition is false changes nothing (log 6, the model's reading of "not enabled"): every
operation that the spec gives an enabling condition, each with the negation of its whole condition. -/
def Obligations.OperationsNotEnabledChangeNothing : Prop :=
  ∀ s : State,
    ((s.dstate ≠ .awaitingPayload ∨ s.rxq = []) → exec .payloadByte s = .next s) ∧
    ((s.dstate ≠ .awaitingPayload ∨ s.rxq ≠ [] ∨ s.cfg.payloadTimeout = none ∨
      deadlinePassed s.cfg s.timer s.frameT0 = false) → exec .frameTimeout s = .next s) ∧
    (s.dstate ≠ .dispatching → exec .dispatchExec s = .next s) ∧
    ((∀ k c, s.mstate ≠ .inUpdate k c) → exec .updateStep s = .next s) ∧
    (∀ b, s.rxReady = false → exec (.rxByte b) s = .next s) ∧
    (s.mstate ≠ .idle → exec .opDispatch s = .next s ∧
      ∀ k, k < s.cfg.pm.length → exec (.opUpdate k) s = .next s ∧ exec (.opReport k) s = .next s) ∧
    (∀ b, (s.mstate ≠ .idle ∨ s.rxq.head? ≠ some b ∨ isUnregistered s.cfg b = false) →
      exec (.unregistered b) s = .next s)

/-! ## Servo commands -/

/-- 44_modules R196 with R198: a valid index byte gives the write, then the echo; any other is dropped silently. -/
def Obligations.ServoRawWritesAndEchoesOrDrops : Prop :=
  ∀ (s : State) (b val : Byte),
    (s.cfg.indexOffset ≤ b.toNat → b.toNat < s.cfg.indexOffset + s.cfg.nservo →
      ∃ v : Half, v.toNat = val.toNat ∧ exec (.servoRaw b val) s = .next { s with
        servoOut := s.servoOut ++ [⟨b.toNat - s.cfg.indexOffset, v, false⟩]
        tx := s.tx ++ ([0x53#8, b, val] ++ s.cfg.eol) }) ∧
    ((b.toNat < s.cfg.indexOffset ∨ s.cfg.indexOffset + s.cfg.nservo ≤ b.toNat) →
      exec (.servoRaw b val) s = .next s)

/-- 44_modules R197: a valid index byte and four hex digits give the write of their value, then the echo with the
digits as received; a bad index or a bad digit drops the frame silently. -/
def Obligations.ServoHexWritesAndEchoesOrDrops : Prop :=
  ∀ (s : State) (b h3 h2 h1 h0 : Byte),
    (∀ d3 d2 d1 d0, s.cfg.indexOffset ≤ b.toNat → b.toNat < s.cfg.indexOffset + s.cfg.nservo →
      DigitOf h3 d3 → DigitOf h2 d2 → DigitOf h1 d1 → DigitOf h0 d0 →
      ∃ v : Half, v.toNat = 4096 * d3 + 256 * d2 + 16 * d1 + d0 ∧
        exec (.servoHex b h3 h2 h1 h0) s = .next { s with
          servoOut := s.servoOut ++ [⟨b.toNat - s.cfg.indexOffset, v, true⟩]
          tx := s.tx ++ ([s.cfg.opServoHex, b, h3, h2, h1, h0] ++ s.cfg.eol) }) ∧
    ((b.toNat < s.cfg.indexOffset ∨ s.cfg.indexOffset + s.cfg.nservo ≤ b.toNat ∨
        ∃ h ∈ [h3, h2, h1, h0], ¬ IsDigit h) →
      exec (.servoHex b h3 h2 h1 h0) s = .next s)

/-! ## Report encoder -/

/-- 43_report_encoder R170. -/
def Obligations.HexdigitGivesTheUpperCaseDigit : Prop :=
  ∀ (s : State) (n : Nibble), ∃ b : Byte, exec (.hexdigit n) s = .next { s with result := .byte b } ∧
    b.toNat = if n.toNat ≤ 9 then 0x30 + n.toNat else 0x41 + (n.toNat - 10)

/-- 43_report_encoder R171, R172, R173: exactly 2, 4 and 8 upper-case digits, most significant first. -/
def Obligations.HexEncodersWriteMostSignificantDigitFirst : Prop :=
  ∀ s : State,
    (∀ b : Byte, exec (.hex2 b) s = .next { s with
      result := .bytes ((List.range 2).map (fun j => asciiDigit (b.toNat / 16 ^ (1 - j) % 16))) }) ∧
    (∀ v : Half, exec (.hex4 v) s = .next { s with
      result := .bytes ((List.range 4).map (fun j => asciiDigit (v.toNat / 16 ^ (3 - j) % 16))) }) ∧
    (∀ v : Quad, exec (.hex8 v) s = .next { s with
      result := .bytes ((List.range 8).map (fun j => asciiDigit (v.toNat / 16 ^ (7 - j) % 16))) })

/-- 43_report_encoder R174. -/
def Obligations.HexvalAcceptsBothCasesOnly : Prop :=
  ∀ (s : State) (ch : Byte),
    (∀ n, DigitOf ch n → ∃ d : Nibble, d.toNat = n ∧
      exec (.hexval ch) s = .next { s with result := .nibble (some d) }) ∧
    (¬ IsDigit ch → exec (.hexval ch) s = .next { s with result := .nibble none })

/-- 43_report_encoder R175. -/
def Obligations.Hexdec4JoinsFourDigits : Prop :=
  ∀ (s : State) (h3 h2 h1 h0 : Byte),
    (∀ d3 d2 d1 d0, DigitOf h3 d3 → DigitOf h2 d2 → DigitOf h1 d1 → DigitOf h0 d0 →
      ∃ v : Half, v.toNat = 4096 * d3 + 256 * d2 + 16 * d1 + d0 ∧
        exec (.hexdec4 h3 h2 h1 h0) s = .next { s with result := .half (some v) }) ∧
    ((∃ h ∈ [h3, h2, h1, h0], ¬ IsDigit h) →
      exec (.hexdec4 h3 h2 h1 h0) s = .next { s with result := .half none })

/-- 43_report_encoder R176: decoding an encoded 16-bit value gives it back, for all values; encoding a decoded field
gives it back exactly when it has no lower-case letter. -/
def Obligations.HexRoundTrip : Prop :=
  (∀ (s : State) (v : Half), ∃ a b c d, exec (.hex4 v) s = .next { s with result := .bytes [a, b, c, d] } ∧
    exec (.hexdec4 a b c d) s = .next { s with result := .half (some v) }) ∧
  (∀ (s : State) (a b c d : Byte) (v : Half),
    exec (.hexdec4 a b c d) s = .next { s with result := .half (some v) } →
    (exec (.hex4 v) s = .next { s with result := .bytes [a, b, c, d] } ↔ ∀ h ∈ [a, b, c, d], h.toNat < 0x61))

/-- 43_report_encoder R177. -/
def Obligations.TxLineAppendsTheLineAndItsTerminator : Prop :=
  ∀ (s : State) (bytes : List Byte), exec (.txLine bytes) s = .next { s with tx := s.tx ++ bytes ++ s.cfg.eol }

/-- 43_report_encoder R178 and R179 with the layouts of 30_encoding R78 and R79: kind, letter, raw index byte, four
digits, EOL; a full report shows the held width. -/
def Obligations.ReportLinesHaveTheirLayout : Prop :=
  (∀ (s : State) (k c : Nat) (m : PulseModule) (w : Half), s.cfg.pm[k]? = some m → c < m.nch →
    exec (.changeReport k c w) s = .next { s with tx := s.tx ++ reportLine s.cfg 0x43#8 m c w }) ∧
  (∀ (s : State) (k c : Nat) (m : PulseModule) (x : Channel), s.cfg.pm[k]? = some m → s.chan? k c = some x →
    exec (.fullReport k c) s = .next { s with tx := s.tx ++ reportLine s.cfg 0x52#8 m c x.lastWidth })

/-- 43_report_encoder R180 and 30_encoding R80 for the two commands of the block. -/
def Obligations.AcknowledgmentsEchoTheFrame : Prop :=
  ∀ (s : State) (b val h3 h2 h1 h0 : Byte),
    exec (.ackServoRaw b val) s = .next { s with tx := s.tx ++ ([0x53#8, b, val] ++ s.cfg.eol) } ∧
    exec (.ackServoHex b h3 h2 h1 h0) s =
      .next { s with tx := s.tx ++ ([s.cfg.opServoHex, b, h3, h2, h1, h0] ++ s.cfg.eol) }

/-! ## Reset -/

/-- 70_reset_and_hazards R250 with the table of 10_state R40. `cur`, `buf` and `frame_t0` are unspecified there: the
statement says nothing of their values. -/
def Obligations.ResetGivesTheTableOfResetValues : Prop :=
  ∀ s : State, ∃ t, exec .reset s = .next t ∧
    (∀ k c, t.chan? k c = match s.cfg.pm[k]? with
      | some m => if c < m.nch then some ⟨0, 0, false, m.initWidth⟩ else none
      | none => none) ∧
    t.timer = 0 ∧ t.dstate = .awaitingOpcode ∧ t.cnt = 0 ∧ t.mstate = .idle ∧ t.rxq = [] ∧ t.tx = [] ∧
    t.servoOut = [] ∧ t.cfg = s.cfg

/-- 70_reset_and_hazards R251: after RESET, with no edge, an update emits nothing and a report emits the initial width
of every channel. -/
def Obligations.AfterResetReportsShowTheInitialWidth : Prop :=
  ∀ (s t : State) (k : Nat) (m : PulseModule), s.cfg.wf = true → exec .reset s = .next t → s.cfg.pm[k]? = some m →
    (∃ u, execAll (.opUpdate k :: List.replicate m.nch .updateStep) t = .next u ∧ u.tx = []) ∧
    (∃ u, exec (.opReport k) t = .next u ∧
      u.tx = ((List.range m.nch).map (fun c => reportLine s.cfg 0x52#8 m c m.initWidth)).flatten)

/-- The machine's reset state, and RESET of any well-formed configuration, are states of the block (10_state R40, R41;
the named values of log 3 are in range); RESET leaves the model's own `pending` and `result` (log 22). -/
def Obligations.ResetStatesSatisfyTheInvariant : Prop :=
  State.reset.Inv ∧ (∀ c : Config, c.wf = true → (State.resetOf c).Inv) ∧
  ∀ s : State, s.cfg.wf = true →
    ∃ t, exec .reset s = .next t ∧ t.Inv ∧ t.pending = s.pending ∧ t.result = s.result

/-! ## Whole-machine rules -/

/-- 60_exceptions R232 with 10_state R21 to R25: which operations may change a channel's registers, over all
instructions. -/
def Obligations.ChannelRegistersHaveOnlyTheirWriters : Prop :=
  ∀ (i : Instr) (s t : State) (k c : Nat) (x y : Channel),
    exec i s = .next t → s.chan? k c = some x → t.chan? k c = some y → i ≠ .reset →
    (y.rising ≠ x.rising → i = .rise k c) ∧
    (y.falling ≠ x.falling → i = .fall k c) ∧
    (x.hasNew = false → y.hasNew = true → i = .fall k c) ∧
    (x.hasNew = true → y.hasNew = false → i = .rise k c ∨ PollsChannel i s k c) ∧
    (y.lastWidth ≠ x.lastWidth → PollsChannel i s k c ∧ x.hasNew = true)

/-- 60_exceptions R232 with 10_state R26 and R29 to R35: which operations may change `TIMER`, the dispatcher registers
(`dstate` among them), `mstate` and the receive queue, over all instructions. -/
def Obligations.ControlRegistersHaveOnlyTheirWriters : Prop :=
  ∀ (i : Instr) (s t : State), exec i s = .next t → i ≠ .reset →
    (t.timer ≠ s.timer → i = .timerTick) ∧
    (t.dstate ≠ s.dstate → i = .opDispatch ∨ i = .payloadByte ∨ i = .frameTimeout ∨ i = .dispatchExec) ∧
    (t.cur ≠ s.cur → i = .opDispatch) ∧
    (t.cnt ≠ s.cnt → i = .opDispatch ∨ i = .payloadByte) ∧
    (t.buf ≠ s.buf → i = .payloadByte) ∧
    (t.frameT0 ≠ s.frameT0 → i = .opDispatch) ∧
    (t.mstate ≠ s.mstate →
      i = .opDispatch ∨ (∃ k, i = .opUpdate k) ∨ i = .updateStep ∨ i = .frameTimeout ∨ i = .dispatchExec) ∧
    (t.rxq ≠ s.rxq →
      ((∃ b, i = .rxByte b ∧ t.rxq = s.rxq ++ [b]) ∨
        ((i = .opDispatch ∨ i = .payloadByte ∨ ∃ b, i = .unregistered b) ∧ ∃ b, s.rxq = b :: t.rxq)))

/-- 10_state R36 and R37 with 20_memory R62: the traces only grow, `tx` by whole lines, `servo_out` by the servo
commands with internal indexes, and no edge, tick, received byte or poll emits anything. -/
def Obligations.OutputTracesOnlyGrowByWholeLines : Prop :=
  ∀ (i : Instr) (s t : State), exec i s = .next t → i ≠ .reset →
    ∃ (lines : List (List Byte)) (ws : List ServoWrite),
      t.tx = s.tx ++ (lines.map (· ++ s.cfg.eol)).flatten ∧ t.servoOut = s.servoOut ++ ws ∧
      (∀ w ∈ ws, w.idx < s.cfg.nservo) ∧
      (ws ≠ [] → i = .dispatchExec ∨ (∃ b v, i = .servoRaw b v) ∨ ∃ b h3 h2 h1 h0, i = .servoHex b h3 h2 h1 h0) ∧
      (sampleOp i = true → lines = [])

/-- 20_memory R63: no operation and no step writes the configuration. -/
def Obligations.ConfigurationIsNeverWritten : Prop :=
  (∀ (i : Instr) (s t : State), exec i s = .next t → t.cfg = s.cfg) ∧
  (∀ s t : State, step s = .next t → t.cfg = s.cfg)

/-- 70_reset_and_hazards R272: no operation faults; every operation of the configuration is total on every state of
the block, and leaves a state of the block (10_state R41). -/
def Obligations.EveryOperationIsTotalOnStatesOfTheBlock : Prop :=
  ∀ (s : State) (i : Instr), s.Inv → i.wf s.cfg = true → SafeOutcome (exec i s)

/-- 10_state R41: every step keeps the invariant, from every state that has it. -/
def Obligations.EveryStepKeepsTheInvariant : Prop :=
  ∀ s t : State, s.Inv → step s = .next t → t.Inv

/-- 70_reset_and_hazards R272: from a state of the block, with any signals of its ports pending, no run of any length
faults or is refused. -/
def Obligations.NoRunOfTheBlockStops : Prop :=
  ∀ (n : Nat) (s : State), s.Inv → s.PendingOk → ∃ t : State, Host.Core.run Sys2Proof.core n s = .next t ∧ t.Inv

/-- 70_reset_and_hazards R272: every state of the block is quiescent, busy or stuck, and only one of them. -/
def Obligations.QuiescentBusyOrStuckAndOnlyOne : Prop :=
  ∀ s : State, s.Inv →
    (s.Quiescent ∨ s.Busy ∨ s.Stuck) ∧ ¬(s.Quiescent ∧ s.Busy) ∧ ¬(s.Quiescent ∧ s.Stuck) ∧ ¬(s.Busy ∧ s.Stuck)

/-- The column `enabled_when` of spec/opcode_table.json, and decision D16's consequence that in a state of the block at
most one micro-step is enabled: `enabledMicro` is that one. -/
def Obligations.EnabledMicroStepIsTheOneItsConditionNames : Prop :=
  ∀ s : State, s.Inv →
    (s.enabledMicro = some .updateStep ↔ ∃ k c, s.mstate = .inUpdate k c) ∧
    (s.enabledMicro = some .dispatchExec ↔ s.dstate = .dispatching) ∧
    (s.enabledMicro = some .payloadByte ↔ s.dstate = .awaitingPayload ∧ s.rxq ≠ []) ∧
    (s.enabledMicro = some .frameTimeout ↔ s.dstate = .awaitingPayload ∧ s.rxq = [] ∧
      ∃ limit, s.cfg.payloadTimeout = some limit ∧ limit ≤ stampDiff s.cfg.tsw s.timer s.frameT0)

/-! ## Step, configuration, cycles -/

/-- The step is the decoded operation of the oldest pending signal, else of the block's own enabled micro-step, else
nothing (70_reset_and_hazards R272 for the waiting state). The model's own: the order (log 5), and that a low strobe is
taken without an effect and a signal no port can carry is refused (log 13). -/
def Obligations.StepRunsTheDecodedOperation : Prop :=
  ∀ s : State, s.cfg.wf = true →
    (∀ g rest i, s.pending = g :: rest → decodeSignal s.cfg g = .ok i →
      step s = exec i { s with pending := rest }) ∧
    (∀ g rest, s.pending = g :: rest → decodeSignal s.cfg g = .error .strobeLow →
      step s = .next { s with pending := rest }) ∧
    (∀ g rest e, s.pending = g :: rest → decodeSignal s.cfg g = .error e → e ≠ .strobeLow →
      step s = .refused (.illFormedSignal e)) ∧
    (∀ m, s.pending = [] → s.enabledMicro = some m → step s = exec m.instr s) ∧
    (s.pending = [] → s.enabledMicro = none → step s = .next s)

/-- 60_exceptions R225 and 00_scope R8: a configuration with two entries of the same opcode is refused. -/
def Obligations.DuplicateOpcodeIsRefused : Prop :=
  ∀ (s : State) (i j : Nat) (e e' : RegEntry), i ≠ j → s.cfg.reg[i]? = some e → s.cfg.reg[j]? = some e' →
    e.opcode = e'.opcode → step s = .refused .illFormedConfig

/-- 60_exceptions R229, 20_memory R61, 40_edge_timer R105, read as the serial order of one cycle (log 21): the steps of
a cycle without reset are the main context's operation, the RISEs ascending, the FALLs ascending, the received byte and
the tick, in that order. Hence every channel whose strobes were high holds the cycle's pre-tick `TIMER`; a FALL of the
cycle leaves its sample waiting, a RISE alone leaves none. With reset, the cycle is RESET alone. -/
def Obligations.ClockCycleOrdersMainContextRisesFallsTick : Prop :=
  (∀ (s : State) (x : CycleInputs), s.Inv → s.pending = [] → x.rst = false →
    ∃ (main : List Instr) (rises falls : List (Nat × Nat)) (t : State),
      CycleMain s x main ∧ EdgesInOrder s.cfg x.rise rises ∧ EdgesInOrder s.cfg x.fall falls ∧
      Host.Core.run Sys2Proof.core (cycleOps s x main rises falls).length (s.clockIn x) = .next t ∧
      execAll (cycleOps s x main rises falls) s = .next t ∧
      t.timer = (if x.tick then (s.timer + 1) % 2 ^ s.cfg.tsw else s.timer) ∧
      ∀ k c z, t.chan? k c = some z →
        ((k, c) ∈ x.rise → z.rising = s.timer) ∧
        ((k, c) ∈ x.fall → z.falling = s.timer ∧ z.hasNew = true) ∧
        ((k, c) ∈ x.rise → (k, c) ∉ x.fall → z.hasNew = false)) ∧
  (∀ (s : State) (x : CycleInputs), s.cfg.wf = true → s.pending = [] → x.rst = true →
    Host.Core.run Sys2Proof.core 1 (s.clockIn x) = exec .reset s)

/-! ## Encodings -/

/-- 30_encoding R70 to R83 and the port table of 10_state R39: for every well-formed instruction that has an encoding,
with every operand, the decoder gives it back; the called functions are the instructions without one. -/
def Obligations.DecodeOfEncodeIsTheInstruction : Prop :=
  (∀ (cfg : Config) (held : Half) (i : Instr) (e : Encoding), cfg.wf = true → i.wf cfg = true →
    encode cfg held i = some e → decode cfg e = .ok i) ∧
  (∀ (cfg : Config) (held : Half) (i : Instr), encode cfg held i = none ↔
    (∃ k c, i = .poll k c ∨ i = .updateChannel k c) ∨ (∃ n, i = .hexdigit n) ∨ (∃ b, i = .hex2 b ∨ i = .hexval b) ∨
    (∃ v, i = .hex4 v) ∨ (∃ v, i = .hex8 v) ∨ (∃ a b c d, i = .hexdec4 a b c d) ∨ ∃ bs, i = .txLine bs)

/-- 30_encoding R86: the length of a frame is learnt from its opcode byte alone. -/
def Obligations.FrameLengthIsLearntFromTheOpcode : Prop :=
  ∀ (cfg : Config) (op : Byte) (more rest : List Byte) (i : Instr),
    decodeFrame cfg (op :: more) = .ok (i, rest) →
    ∃ payload, more = payload ++ rest ∧
      ((∀ e ∈ cfg.reg, e.opcode ≠ op) → payload = []) ∧
      (∀ n e, lookup cfg op = some (n, e) → payload.length = e.len)

/-- Words written out from the layouts of 30_encoding R72, R73, R78, R79, R80, R83 and 10_state R39, in the example
configuration. -/
def Obligations.WordsOfTheSpecDecode : Prop :=
  decode Config.excfg (.frame [0x53, 0x20, 0x2D]) = .ok (.servoRaw 0x20 45) ∧
  decode Config.excfg (.frame [0x73, 0x21, 0x30, 0x35, 0x44, 0x43]) = .ok (.servoHex 0x21 0x30 0x35 0x44 0x43) ∧
  decode Config.excfg (.frame [0x58]) = .ok (.unregistered 0x58) ∧
  decode Config.excfg (.line [0x43, 0x50, 0x20, 0x30, 0x32, 0x30, 0x38]) = .ok (.changeReport 0 0 520) ∧
  decode Config.excfg (.line [0x52, 0x49, 0x20, 0x30, 0x35, 0x44, 0x43]) = .ok (.fullReport 1 0) ∧
  decode Config.excfg (.line [0x53, 0x21, 0x0A]) = .ok (.ackServoRaw 0x21 0x0A) ∧
  decode Config.excfg (.signal (.port .rx 0x153)) = .ok (.rxByte 0x53) ∧
  decode Config.excfg (.signal (.port (.edgeFall 1 0) 1)) = .ok (.fall 1 0)
end

