-- ==== Sys2Proof/Laws/Codec.lean ====
section
/-! SUPPORT. The arithmetic, the opcode lookup and the hex codec: what each function answers, in the words of the
spec's case distinctions. -/

namespace Sys2Proof

/-! ## Timestamps -/

theorem incWrap_lt (tsw t : Nat) : incWrap tsw t < 2 ^ tsw := Nat.mod_lt _ (Nat.two_pow_pos tsw)

theorem subWrap_lt (tsw f r : Nat) : subWrap tsw f r < 2 ^ tsw := BitVec.isLt _

theorem subWrap_eq (tsw f r : Nat) : subWrap tsw f r = (2 ^ tsw - r % 2 ^ tsw + f % 2 ^ tsw) % 2 ^ tsw := by
  simp [subWrap, BitVec.toNat_sub]

/-! ## The registration table -/

theorem lookupFrom_eq_some {es : List RegEntry} {n : Nat} {b : Byte} {i : Nat} {e : RegEntry}
    (h : lookupFrom es n b = some (i, e)) : n ≤ i ∧ es[i - n]? = some e ∧ e.opcode = b := by
  induction es generalizing n with
  | nil => simp [lookupFrom] at h
  | cons x xs ih =>
    simp only [lookupFrom] at h
    split at h
    · next hx =>
      simp only [Option.some.injEq, Prod.mk.injEq] at h
      obtain ⟨rfl, rfl⟩ := h
      simp [hx]
    · obtain ⟨h1, h2, h3⟩ := ih h
      refine ⟨by omega, ?_, h3⟩
      rw [show i - n = (i - (n + 1)) + 1 by omega]
      simpa using h2

theorem lookupFrom_eq_none {es : List RegEntry} {n : Nat} {b : Byte} :
    lookupFrom es n b = none ↔ ∀ e ∈ es, e.opcode ≠ b := by
  induction es generalizing n with
  | nil => simp [lookupFrom]
  | cons x xs ih =>
    simp only [lookupFrom]
    split
    · next hx => simp [hx]
    · next hx => simp [ih, hx]

/-- A found entry stands in REG at the position found and has the opcode looked for. -/
theorem lookup_eq_some {c : Config} {b : Byte} {i : Nat} {e : RegEntry} (h : lookup c b = some (i, e)) :
    c.reg[i]? = some e ∧ e.opcode = b := by
  simpa using (lookupFrom_eq_some h).2

/-- Nothing is found exactly for a byte that no entry has (20_memory R52). -/
theorem lookup_eq_none {c : Config} {b : Byte} : lookup c b = none ↔ ∀ e ∈ c.reg, e.opcode ≠ b :=
  lookupFrom_eq_none

theorem isUnregistered_iff {c : Config} {b : Byte} : isUnregistered c b = true ↔ ∀ e ∈ c.reg, e.opcode ≠ b := by
  rw [← lookup_eq_none]
  simp [isUnregistered]

/-! ## Hex digits -/

theorem hexval_hexdigit : ∀ n : Nibble, hexval (hexdigit n) = some n := by decide

theorem hexdigit_lt : ∀ n : Nibble, (hexdigit n).toNat < 0x61 := by decide

theorem lineDigit_hexdigit (n : Nibble) : lineDigit (hexdigit n) = some n := by
  simp [lineDigit, hexdigit_lt, hexval_hexdigit]

theorem hexdec4_eq_some {h3 h2 h1 h0 : Byte} {v : Half} :
    hexdec4 h3 h2 h1 h0 = some v ↔
      ∃ d3 d2 d1 d0, hexval h3 = some d3 ∧ hexval h2 = some d2 ∧ hexval h1 = some d1 ∧ hexval h0 = some d0 ∧
        v = joinNibbles d3 d2 d1 d0 := by
  unfold hexdec4
  split
  · next e3 e2 e1 e0 => simp [e3, e2, e1, e0, eq_comm]
  · next h =>
    simp only [reduceCtorEq, false_iff]
    rintro ⟨d3, d2, d1, d0, e3, e2, e1, e0, -⟩
    exact h d3 d2 d1 d0 e3 e2 e1 e0

/-- The assembly of 30_encoding R76 is positional: four digits of base 16, most significant first. -/
theorem joinNibbles_toNat (d3 d2 d1 d0 : Nibble) :
    (joinNibbles d3 d2 d1 d0).toNat = 4096 * d3.toNat + 256 * d2.toNat + 16 * d1.toNat + d0.toNat := by
  have h3 := d3.isLt
  have h2 := d2.isLt
  have h1 := d1.isLt
  have h0 := d0.isLt
  simp only [joinNibbles, BitVec.toNat_or, BitVec.toNat_shiftLeft, BitVec.truncate_eq_setWidth, BitVec.toNat_setWidth]
  have e : ∀ n : Nat, n < 16 → n % 2 ^ 16 = n := fun n hn => Nat.mod_eq_of_lt (by omega)
  rw [e _ h3, e _ h2, e _ h1, e _ h0]
  have s1 : (d3.toNat <<< 12) % 2 ^ 16 = d3.toNat <<< 12 := Nat.mod_eq_of_lt (by rw [Nat.shiftLeft_eq]; omega)
  have s2 : (d2.toNat <<< 8) % 2 ^ 16 = d2.toNat <<< 8 := Nat.mod_eq_of_lt (by rw [Nat.shiftLeft_eq]; omega)
  have s3 : (d1.toNat <<< 4) % 2 ^ 16 = d1.toNat <<< 4 := Nat.mod_eq_of_lt (by rw [Nat.shiftLeft_eq]; omega)
  rw [s1, s2, s3, ← Nat.shiftLeft_add_eq_or_of_lt (b := d2.toNat <<< 8) (by rw [Nat.shiftLeft_eq]; omega) d3.toNat]
  rw [show d3.toNat <<< 12 + d2.toNat <<< 8 = (16 * d3.toNat + d2.toNat) <<< 8 by simp only [Nat.shiftLeft_eq]; omega]
  rw [← Nat.shiftLeft_add_eq_or_of_lt (b := d1.toNat <<< 4) (by rw [Nat.shiftLeft_eq]; omega)]
  rw [show (16 * d3.toNat + d2.toNat) <<< 8 + d1.toNat <<< 4 = (256 * d3.toNat + 16 * d2.toNat + d1.toNat) <<< 4 by simp only [Nat.shiftLeft_eq]; omega]
  rw [← Nat.shiftLeft_add_eq_or_of_lt h0, Nat.shiftLeft_eq]
  omega

end Sys2Proof
end

