-- ==== Sys2Proof/Laws/State.lean ====
section
/-! SUPPORT. One lemma per field per named update of State: what the update writes and what it leaves. -/

namespace Sys2Proof.Machine

variable (s : State)

/-! ### `State.setChan` -/

@[simp] theorem State.setChan_ch (k c : Nat) (x : Channel) :
    (s.setChan k c x).ch = s.ch.modify k (fun row => row.set c x) := rfl
@[simp] theorem State.setChan_timer (k c : Nat) (x : Channel) :
    (s.setChan k c x).timer = s.timer := rfl
@[simp] theorem State.setChan_dstate (k c : Nat) (x : Channel) :
    (s.setChan k c x).dstate = s.dstate := rfl
@[simp] theorem State.setChan_cur (k c : Nat) (x : Channel) :
    (s.setChan k c x).cur = s.cur := rfl
@[simp] theorem State.setChan_cnt (k c : Nat) (x : Channel) :
    (s.setChan k c x).cnt = s.cnt := rfl
@[simp] theorem State.setChan_buf (k c : Nat) (x : Channel) :
    (s.setChan k c x).buf = s.buf := rfl
@[simp] theorem State.setChan_frameT0 (k c : Nat) (x : Channel) :
    (s.setChan k c x).frameT0 = s.frameT0 := rfl
@[simp] theorem State.setChan_mstate (k c : Nat) (x : Channel) :
    (s.setChan k c x).mstate = s.mstate := rfl
@[simp] theorem State.setChan_rxq (k c : Nat) (x : Channel) :
    (s.setChan k c x).rxq = s.rxq := rfl
@[simp] theorem State.setChan_tx (k c : Nat) (x : Channel) :
    (s.setChan k c x).tx = s.tx := rfl
@[simp] theorem State.setChan_servoOut (k c : Nat) (x : Channel) :
    (s.setChan k c x).servoOut = s.servoOut := rfl
@[simp] theorem State.setChan_cfg (k c : Nat) (x : Channel) :
    (s.setChan k c x).cfg = s.cfg := rfl
@[simp] theorem State.setChan_pending (k c : Nat) (x : Channel) :
    (s.setChan k c x).pending = s.pending := rfl
@[simp] theorem State.setChan_result (k c : Nat) (x : Channel) :
    (s.setChan k c x).result = s.result := rfl
@[simp] theorem State.setChan_freeCount (k c : Nat) (x : Channel) :
    (s.setChan k c x).freeCount = s.freeCount := rfl

/-! ### `State.setMain` -/

@[simp] theorem State.setMain_ch (d : DState) (m : MState) :
    (s.setMain d m).ch = s.ch := rfl
@[simp] theorem State.setMain_timer (d : DState) (m : MState) :
    (s.setMain d m).timer = s.timer := rfl
@[simp] theorem State.setMain_dstate (d : DState) (m : MState) :
    (s.setMain d m).dstate = d := rfl
@[simp] theorem State.setMain_cur (d : DState) (m : MState) :
    (s.setMain d m).cur = s.cur := rfl
@[simp] theorem State.setMain_cnt (d : DState) (m : MState) :
    (s.setMain d m).cnt = s.cnt := rfl
@[simp] theorem State.setMain_buf (d : DState) (m : MState) :
    (s.setMain d m).buf = s.buf := rfl
@[simp] theorem State.setMain_frameT0 (d : DState) (m : MState) :
    (s.setMain d m).frameT0 = s.frameT0 := rfl
@[simp] theorem State.setMain_mstate (d : DState) (m : MState) :
    (s.setMain d m).mstate = m := rfl
@[simp] theorem State.setMain_rxq (d : DState) (m : MState) :
    (s.setMain d m).rxq = s.rxq := rfl
@[simp] theorem State.setMain_tx (d : DState) (m : MState) :
    (s.setMain d m).tx = s.tx := rfl
@[simp] theorem State.setMain_servoOut (d : DState) (m : MState) :
    (s.setMain d m).servoOut = s.servoOut := rfl
@[simp] theorem State.setMain_cfg (d : DState) (m : MState) :
    (s.setMain d m).cfg = s.cfg := rfl
@[simp] theorem State.setMain_pending (d : DState) (m : MState) :
    (s.setMain d m).pending = s.pending := rfl
@[simp] theorem State.setMain_result (d : DState) (m : MState) :
    (s.setMain d m).result = s.result := rfl
@[simp] theorem State.setMain_freeCount (d : DState) (m : MState) :
    (s.setMain d m).freeCount = s.freeCount := rfl

/-! ### `State.setResult` -/

@[simp] theorem State.setResult_ch (r : Result) :
    (s.setResult r).ch = s.ch := rfl
@[simp] theorem State.setResult_timer (r : Result) :
    (s.setResult r).timer = s.timer := rfl
@[simp] theorem State.setResult_dstate (r : Result) :
    (s.setResult r).dstate = s.dstate := rfl
@[simp] theorem State.setResult_cur (r : Result) :
    (s.setResult r).cur = s.cur := rfl
@[simp] theorem State.setResult_cnt (r : Result) :
    (s.setResult r).cnt = s.cnt := rfl
@[simp] theorem State.setResult_buf (r : Result) :
    (s.setResult r).buf = s.buf := rfl
@[simp] theorem State.setResult_frameT0 (r : Result) :
    (s.setResult r).frameT0 = s.frameT0 := rfl
@[simp] theorem State.setResult_mstate (r : Result) :
    (s.setResult r).mstate = s.mstate := rfl
@[simp] theorem State.setResult_rxq (r : Result) :
    (s.setResult r).rxq = s.rxq := rfl
@[simp] theorem State.setResult_tx (r : Result) :
    (s.setResult r).tx = s.tx := rfl
@[simp] theorem State.setResult_servoOut (r : Result) :
    (s.setResult r).servoOut = s.servoOut := rfl
@[simp] theorem State.setResult_cfg (r : Result) :
    (s.setResult r).cfg = s.cfg := rfl
@[simp] theorem State.setResult_pending (r : Result) :
    (s.setResult r).pending = s.pending := rfl
@[simp] theorem State.setResult_result (r : Result) :
    (s.setResult r).result = r := rfl
@[simp] theorem State.setResult_freeCount (r : Result) :
    (s.setResult r).freeCount = s.freeCount := rfl

/-! ### `State.rxPush` -/

@[simp] theorem State.rxPush_ch (b : Byte) :
    (s.rxPush b).ch = s.ch := rfl
@[simp] theorem State.rxPush_timer (b : Byte) :
    (s.rxPush b).timer = s.timer := rfl
@[simp] theorem State.rxPush_dstate (b : Byte) :
    (s.rxPush b).dstate = s.dstate := rfl
@[simp] theorem State.rxPush_cur (b : Byte) :
    (s.rxPush b).cur = s.cur := rfl
@[simp] theorem State.rxPush_cnt (b : Byte) :
    (s.rxPush b).cnt = s.cnt := rfl
@[simp] theorem State.rxPush_buf (b : Byte) :
    (s.rxPush b).buf = s.buf := rfl
@[simp] theorem State.rxPush_frameT0 (b : Byte) :
    (s.rxPush b).frameT0 = s.frameT0 := rfl
@[simp] theorem State.rxPush_mstate (b : Byte) :
    (s.rxPush b).mstate = s.mstate := rfl
@[simp] theorem State.rxPush_rxq (b : Byte) :
    (s.rxPush b).rxq = s.rxq ++ [b] := rfl
@[simp] theorem State.rxPush_tx (b : Byte) :
    (s.rxPush b).tx = s.tx := rfl
@[simp] theorem State.rxPush_servoOut (b : Byte) :
    (s.rxPush b).servoOut = s.servoOut := rfl
@[simp] theorem State.rxPush_cfg (b : Byte) :
    (s.rxPush b).cfg = s.cfg := rfl
@[simp] theorem State.rxPush_pending (b : Byte) :
    (s.rxPush b).pending = s.pending := rfl
@[simp] theorem State.rxPush_result (b : Byte) :
    (s.rxPush b).result = s.result := rfl
@[simp] theorem State.rxPush_freeCount (b : Byte) :
    (s.rxPush b).freeCount = s.freeCount := rfl

/-! ### `State.txEmit` -/

@[simp] theorem State.txEmit_ch (bs : List Byte) :
    (s.txEmit bs).ch = s.ch := rfl
@[simp] theorem State.txEmit_timer (bs : List Byte) :
    (s.txEmit bs).timer = s.timer := rfl
@[simp] theorem State.txEmit_dstate (bs : List Byte) :
    (s.txEmit bs).dstate = s.dstate := rfl
@[simp] theorem State.txEmit_cur (bs : List Byte) :
    (s.txEmit bs).cur = s.cur := rfl
@[simp] theorem State.txEmit_cnt (bs : List Byte) :
    (s.txEmit bs).cnt = s.cnt := rfl
@[simp] theorem State.txEmit_buf (bs : List Byte) :
    (s.txEmit bs).buf = s.buf := rfl
@[simp] theorem State.txEmit_frameT0 (bs : List Byte) :
    (s.txEmit bs).frameT0 = s.frameT0 := rfl
@[simp] theorem State.txEmit_mstate (bs : List Byte) :
    (s.txEmit bs).mstate = s.mstate := rfl
@[simp] theorem State.txEmit_rxq (bs : List Byte) :
    (s.txEmit bs).rxq = s.rxq := rfl
@[simp] theorem State.txEmit_tx (bs : List Byte) :
    (s.txEmit bs).tx = s.tx ++ bs := rfl
@[simp] theorem State.txEmit_servoOut (bs : List Byte) :
    (s.txEmit bs).servoOut = s.servoOut := rfl
@[simp] theorem State.txEmit_cfg (bs : List Byte) :
    (s.txEmit bs).cfg = s.cfg := rfl
@[simp] theorem State.txEmit_pending (bs : List Byte) :
    (s.txEmit bs).pending = s.pending := rfl
@[simp] theorem State.txEmit_result (bs : List Byte) :
    (s.txEmit bs).result = s.result := rfl
@[simp] theorem State.txEmit_freeCount (bs : List Byte) :
    (s.txEmit bs).freeCount = s.freeCount := rfl

/-! ### `State.emitLine` -/

@[simp] theorem State.emitLine_ch (bs : List Byte) :
    (s.emitLine bs).ch = s.ch := rfl
@[simp] theorem State.emitLine_timer (bs : List Byte) :
    (s.emitLine bs).timer = s.timer := rfl
@[simp] theorem State.emitLine_dstate (bs : List Byte) :
    (s.emitLine bs).dstate = s.dstate := rfl
@[simp] theorem State.emitLine_cur (bs : List Byte) :
    (s.emitLine bs).cur = s.cur := rfl
@[simp] theorem State.emitLine_cnt (bs : List Byte) :
    (s.emitLine bs).cnt = s.cnt := rfl
@[simp] theorem State.emitLine_buf (bs : List Byte) :
    (s.emitLine bs).buf = s.buf := rfl
@[simp] theorem State.emitLine_frameT0 (bs : List Byte) :
    (s.emitLine bs).frameT0 = s.frameT0 := rfl
@[simp] theorem State.emitLine_mstate (bs : List Byte) :
    (s.emitLine bs).mstate = s.mstate := rfl
@[simp] theorem State.emitLine_rxq (bs : List Byte) :
    (s.emitLine bs).rxq = s.rxq := rfl
@[simp] theorem State.emitLine_tx (bs : List Byte) :
    (s.emitLine bs).tx = s.tx ++ (bs ++ s.cfg.eol) := rfl
@[simp] theorem State.emitLine_servoOut (bs : List Byte) :
    (s.emitLine bs).servoOut = s.servoOut := rfl
@[simp] theorem State.emitLine_cfg (bs : List Byte) :
    (s.emitLine bs).cfg = s.cfg := rfl
@[simp] theorem State.emitLine_pending (bs : List Byte) :
    (s.emitLine bs).pending = s.pending := rfl
@[simp] theorem State.emitLine_result (bs : List Byte) :
    (s.emitLine bs).result = s.result := rfl
@[simp] theorem State.emitLine_freeCount (bs : List Byte) :
    (s.emitLine bs).freeCount = s.freeCount := rfl

/-! ### `State.servoWrite` -/

@[simp] theorem State.servoWrite_ch (i : Nat) (v : Half) (h : Bool) :
    (s.servoWrite i v h).ch = s.ch := rfl
@[simp] theorem State.servoWrite_timer (i : Nat) (v : Half) (h : Bool) :
    (s.servoWrite i v h).timer = s.timer := rfl
@[simp] theorem State.servoWrite_dstate (i : Nat) (v : Half) (h : Bool) :
    (s.servoWrite i v h).dstate = s.dstate := rfl
@[simp] theorem State.servoWrite_cur (i : Nat) (v : Half) (h : Bool) :
    (s.servoWrite i v h).cur = s.cur := rfl
@[simp] theorem State.servoWrite_cnt (i : Nat) (v : Half) (h : Bool) :
    (s.servoWrite i v h).cnt = s.cnt := rfl
@[simp] theorem State.servoWrite_buf (i : Nat) (v : Half) (h : Bool) :
    (s.servoWrite i v h).buf = s.buf := rfl
@[simp] theorem State.servoWrite_frameT0 (i : Nat) (v : Half) (h : Bool) :
    (s.servoWrite i v h).frameT0 = s.frameT0 := rfl
@[simp] theorem State.servoWrite_mstate (i : Nat) (v : Half) (h : Bool) :
    (s.servoWrite i v h).mstate = s.mstate := rfl
@[simp] theorem State.servoWrite_rxq (i : Nat) (v : Half) (h : Bool) :
    (s.servoWrite i v h).rxq = s.rxq := rfl
@[simp] theorem State.servoWrite_tx (i : Nat) (v : Half) (h : Bool) :
    (s.servoWrite i v h).tx = s.tx := rfl
@[simp] theorem State.servoWrite_servoOut (i : Nat) (v : Half) (h : Bool) :
    (s.servoWrite i v h).servoOut = s.servoOut ++ [⟨i, v, h⟩] := rfl
@[simp] theorem State.servoWrite_cfg (i : Nat) (v : Half) (h : Bool) :
    (s.servoWrite i v h).cfg = s.cfg := rfl
@[simp] theorem State.servoWrite_pending (i : Nat) (v : Half) (h : Bool) :
    (s.servoWrite i v h).pending = s.pending := rfl
@[simp] theorem State.servoWrite_result (i : Nat) (v : Half) (h : Bool) :
    (s.servoWrite i v h).result = s.result := rfl
@[simp] theorem State.servoWrite_freeCount (i : Nat) (v : Half) (h : Bool) :
    (s.servoWrite i v h).freeCount = s.freeCount := rfl

/-! ### `State.push` -/

@[simp] theorem State.push_ch (g : Signal) :
    (s.push g).ch = s.ch := rfl
@[simp] theorem State.push_timer (g : Signal) :
    (s.push g).timer = s.timer := rfl
@[simp] theorem State.push_dstate (g : Signal) :
    (s.push g).dstate = s.dstate := rfl
@[simp] theorem State.push_cur (g : Signal) :
    (s.push g).cur = s.cur := rfl
@[simp] theorem State.push_cnt (g : Signal) :
    (s.push g).cnt = s.cnt := rfl
@[simp] theorem State.push_buf (g : Signal) :
    (s.push g).buf = s.buf := rfl
@[simp] theorem State.push_frameT0 (g : Signal) :
    (s.push g).frameT0 = s.frameT0 := rfl
@[simp] theorem State.push_mstate (g : Signal) :
    (s.push g).mstate = s.mstate := rfl
@[simp] theorem State.push_rxq (g : Signal) :
    (s.push g).rxq = s.rxq := rfl
@[simp] theorem State.push_tx (g : Signal) :
    (s.push g).tx = s.tx := rfl
@[simp] theorem State.push_servoOut (g : Signal) :
    (s.push g).servoOut = s.servoOut := rfl
@[simp] theorem State.push_cfg (g : Signal) :
    (s.push g).cfg = s.cfg := rfl
@[simp] theorem State.push_pending (g : Signal) :
    (s.push g).pending = g :: s.pending := rfl
@[simp] theorem State.push_result (g : Signal) :
    (s.push g).result = s.result := rfl
@[simp] theorem State.push_freeCount (g : Signal) :
    (s.push g).freeCount = s.freeCount := rfl

/-! ### `beginFrame`, `ackLine`, `externalHandler` -/

@[simp] theorem beginFrame_ch (i : Nat) (e : RegEntry) :
    (beginFrame i e s).ch = s.ch := rfl
@[simp] theorem beginFrame_timer (i : Nat) (e : RegEntry) :
    (beginFrame i e s).timer = s.timer := rfl
@[simp] theorem beginFrame_dstate (i : Nat) (e : RegEntry) :
    (beginFrame i e s).dstate = if e.len = 0 then .dispatching else .awaitingPayload := rfl
@[simp] theorem beginFrame_cur (i : Nat) (e : RegEntry) :
    (beginFrame i e s).cur = i := rfl
@[simp] theorem beginFrame_cnt (i : Nat) (e : RegEntry) :
    (beginFrame i e s).cnt = 0 := rfl
@[simp] theorem beginFrame_buf (i : Nat) (e : RegEntry) :
    (beginFrame i e s).buf = s.buf := rfl
@[simp] theorem beginFrame_frameT0 (i : Nat) (e : RegEntry) :
    (beginFrame i e s).frameT0 = s.timer := rfl
@[simp] theorem beginFrame_mstate (i : Nat) (e : RegEntry) :
    (beginFrame i e s).mstate = .inDispatch := rfl
@[simp] theorem beginFrame_rxq (i : Nat) (e : RegEntry) :
    (beginFrame i e s).rxq = s.rxq := rfl
@[simp] theorem beginFrame_tx (i : Nat) (e : RegEntry) :
    (beginFrame i e s).tx = s.tx := rfl
@[simp] theorem beginFrame_servoOut (i : Nat) (e : RegEntry) :
    (beginFrame i e s).servoOut = s.servoOut := rfl
@[simp] theorem beginFrame_cfg (i : Nat) (e : RegEntry) :
    (beginFrame i e s).cfg = s.cfg := rfl
@[simp] theorem beginFrame_pending (i : Nat) (e : RegEntry) :
    (beginFrame i e s).pending = s.pending := rfl
@[simp] theorem beginFrame_result (i : Nat) (e : RegEntry) :
    (beginFrame i e s).result = s.result := rfl
@[simp] theorem beginFrame_freeCount (i : Nat) (e : RegEntry) :
    (beginFrame i e s).freeCount = s.freeCount := rfl

@[simp] theorem ackLine_ch (op : Byte) (p : List Byte) :
    (ackLine op p s).ch = s.ch := rfl
@[simp] theorem ackLine_timer (op : Byte) (p : List Byte) :
    (ackLine op p s).timer = s.timer := rfl
@[simp] theorem ackLine_dstate (op : Byte) (p : List Byte) :
    (ackLine op p s).dstate = s.dstate := rfl
@[simp] theorem ackLine_cur (op : Byte) (p : List Byte) :
    (ackLine op p s).cur = s.cur := rfl
@[simp] theorem ackLine_cnt (op : Byte) (p : List Byte) :
    (ackLine op p s).cnt = s.cnt := rfl
@[simp] theorem ackLine_buf (op : Byte) (p : List Byte) :
    (ackLine op p s).buf = s.buf := rfl
@[simp] theorem ackLine_frameT0 (op : Byte) (p : List Byte) :
    (ackLine op p s).frameT0 = s.frameT0 := rfl
@[simp] theorem ackLine_mstate (op : Byte) (p : List Byte) :
    (ackLine op p s).mstate = s.mstate := rfl
@[simp] theorem ackLine_rxq (op : Byte) (p : List Byte) :
    (ackLine op p s).rxq = s.rxq := rfl
@[simp] theorem ackLine_tx (op : Byte) (p : List Byte) :
    (ackLine op p s).tx = s.tx ++ ((op :: p) ++ s.cfg.eol) := rfl
@[simp] theorem ackLine_servoOut (op : Byte) (p : List Byte) :
    (ackLine op p s).servoOut = s.servoOut := rfl
@[simp] theorem ackLine_cfg (op : Byte) (p : List Byte) :
    (ackLine op p s).cfg = s.cfg := rfl
@[simp] theorem ackLine_pending (op : Byte) (p : List Byte) :
    (ackLine op p s).pending = s.pending := rfl
@[simp] theorem ackLine_result (op : Byte) (p : List Byte) :
    (ackLine op p s).result = s.result := rfl
@[simp] theorem ackLine_freeCount (op : Byte) (p : List Byte) :
    (ackLine op p s).freeCount = s.freeCount := rfl

@[simp] theorem externalHandler_ch (n : Nat) (op : Byte) (p : List Byte) :
    (externalHandler n op p s).ch = s.ch := rfl
@[simp] theorem externalHandler_timer (n : Nat) (op : Byte) (p : List Byte) :
    (externalHandler n op p s).timer = s.timer := rfl
@[simp] theorem externalHandler_dstate (n : Nat) (op : Byte) (p : List Byte) :
    (externalHandler n op p s).dstate = s.dstate := rfl
@[simp] theorem externalHandler_cur (n : Nat) (op : Byte) (p : List Byte) :
    (externalHandler n op p s).cur = s.cur := rfl
@[simp] theorem externalHandler_cnt (n : Nat) (op : Byte) (p : List Byte) :
    (externalHandler n op p s).cnt = s.cnt := rfl
@[simp] theorem externalHandler_buf (n : Nat) (op : Byte) (p : List Byte) :
    (externalHandler n op p s).buf = s.buf := rfl
@[simp] theorem externalHandler_frameT0 (n : Nat) (op : Byte) (p : List Byte) :
    (externalHandler n op p s).frameT0 = s.frameT0 := rfl
@[simp] theorem externalHandler_mstate (n : Nat) (op : Byte) (p : List Byte) :
    (externalHandler n op p s).mstate = s.mstate := rfl
@[simp] theorem externalHandler_rxq (n : Nat) (op : Byte) (p : List Byte) :
    (externalHandler n op p s).rxq = s.rxq := rfl
@[simp] theorem externalHandler_tx (n : Nat) (op : Byte) (p : List Byte) :
    (externalHandler n op p s).tx = s.tx ++ ((Config.externalLines n s.freeCount op p).map (· ++ s.cfg.eol)).flatten := rfl
@[simp] theorem externalHandler_servoOut (n : Nat) (op : Byte) (p : List Byte) :
    (externalHandler n op p s).servoOut = s.servoOut := rfl
@[simp] theorem externalHandler_cfg (n : Nat) (op : Byte) (p : List Byte) :
    (externalHandler n op p s).cfg = s.cfg := rfl
@[simp] theorem externalHandler_pending (n : Nat) (op : Byte) (p : List Byte) :
    (externalHandler n op p s).pending = s.pending := rfl
@[simp] theorem externalHandler_result (n : Nat) (op : Byte) (p : List Byte) :
    (externalHandler n op p s).result = s.result := rfl
@[simp] theorem externalHandler_freeCount (n : Nat) (op : Byte) (p : List Byte) :
    (externalHandler n op p s).freeCount = s.freeCount + 1 := rfl

/-! ### Reading a channel after an update that is not of a channel -/

@[simp] theorem State.chan?_setMain (d : DState) (m : MState) (k c : Nat) :
    (s.setMain d m).chan? k c = s.chan? k c := rfl
@[simp] theorem State.chan?_setResult (r : Result) (k c : Nat) :
    (s.setResult r).chan? k c = s.chan? k c := rfl
@[simp] theorem State.chan?_rxPush (b : Byte) (k c : Nat) :
    (s.rxPush b).chan? k c = s.chan? k c := rfl
@[simp] theorem State.chan?_txEmit (bs : List Byte) (k c : Nat) :
    (s.txEmit bs).chan? k c = s.chan? k c := rfl
@[simp] theorem State.chan?_emitLine (bs : List Byte) (k c : Nat) :
    (s.emitLine bs).chan? k c = s.chan? k c := rfl
@[simp] theorem State.chan?_servoWrite (i : Nat) (v : Half) (h : Bool) (k c : Nat) :
    (s.servoWrite i v h).chan? k c = s.chan? k c := rfl
@[simp] theorem State.chan?_push (g : Signal) (k c : Nat) :
    (s.push g).chan? k c = s.chan? k c := rfl
@[simp] theorem chan?_beginFrame (i : Nat) (e : RegEntry) (k c : Nat) :
    (beginFrame i e s).chan? k c = s.chan? k c := rfl
@[simp] theorem chan?_ackLine (op : Byte) (p : List Byte) (k c : Nat) :
    (ackLine op p s).chan? k c = s.chan? k c := rfl
@[simp] theorem chan?_externalHandler (n : Nat) (op : Byte) (p : List Byte) (k c : Nat) :
    (externalHandler n op p s).chan? k c = s.chan? k c := rfl

/-! ### The flag and the registers of one channel -/

variable (x : Channel) (n : Nat)

@[simp] theorem Channel.stampRise_rising : (x.stampRise n).rising = n := rfl
@[simp] theorem Channel.stampRise_falling : (x.stampRise n).falling = x.falling := rfl
@[simp] theorem Channel.stampRise_hasNew : (x.stampRise n).hasNew = false := rfl
@[simp] theorem Channel.stampRise_lastWidth : (x.stampRise n).lastWidth = x.lastWidth := rfl
@[simp] theorem Channel.stampFall_rising : (x.stampFall n).rising = x.rising := rfl
@[simp] theorem Channel.stampFall_falling : (x.stampFall n).falling = n := rfl
@[simp] theorem Channel.stampFall_hasNew : (x.stampFall n).hasNew = true := rfl
@[simp] theorem Channel.stampFall_lastWidth : (x.stampFall n).lastWidth = x.lastWidth := rfl
@[simp] theorem State.now_eq : s.now = s.timer := rfl

end Sys2Proof.Machine
end

