-- ==== Sys2Proof/Laws/Ops.lean ====
section
/-! SUPPORT. For each shared operation one lemma that says once everything it can do: when it answers a next state and
which one. Proofs cite these and do not unfold the operations. -/

namespace Sys2Proof.Machine

/-! ## Sequencing -/

@[simp] theorem andThen_next (s : State) (f : State → Out) : andThen (.next s) f = f s := rfl
@[simp] theorem andThen_fault (r : Fault) (f : State → Out) : andThen (.fault r) f = .fault r := rfl
@[simp] theorem andThen_refused (r : Refusal) (f : State → Out) : andThen (.refused r) f = .refused r := rfl

theorem andThen_eq_next {o : Out} {f : State → Out} {t : State} :
    andThen o f = .next t ↔ ∃ s, o = .next s ∧ f s = .next t := by
  cases o <;> simp

/-! ## Ways to end without an effect -/

@[simp] theorem drop_eq (e : ErrorCondition) (s : State) : drop e s = .next s := rfl
@[simp] theorem ignored_eq (s : State) : ignored s = .next s := rfl
@[simp] theorem notEnabled_eq (s : State) : notEnabled s = .next s := rfl

/-! ## Channels -/

@[simp] theorem State.chan?_of_ch {s t : State} (h : t.ch = s.ch) (k c : Nat) : t.chan? k c = s.chan? k c := by
  simp [State.chan?, h]

theorem State.chan?_eq_some {s : State} {k c : Nat} {x : Channel} :
    s.chan? k c = some x ↔ ∃ row, s.ch[k]? = some row ∧ row[c]? = some x := by
  unfold State.chan?
  cases s.ch[k]? <;> simp

/-- A channel read through `chan?` stands in the channel lists. -/
theorem State.chan?_mem {s : State} {k c : Nat} {x : Channel} (h : s.chan? k c = some x) :
    ∃ row ∈ s.ch, x ∈ row := by
  obtain ⟨row, hr, hx⟩ := State.chan?_eq_some.1 h
  exact ⟨row, List.mem_of_getElem? hr, List.mem_of_getElem? hx⟩

theorem State.chan?_setChan_self {s : State} {k c : Nat} {x y : Channel} (h : s.chan? k c = some x) :
    (s.setChan k c y).chan? k c = some y := by
  obtain ⟨row, hrow, hx⟩ := State.chan?_eq_some.1 h
  have hc : c < row.length := (List.getElem?_eq_some_iff.1 hx).1
  simp [State.chan?, State.setChan, hrow, hc]

theorem State.chan?_setChan_ne {s : State} {k c k' c' : Nat} {y : Channel} (h : (k', c') ≠ (k, c)) :
    (s.setChan k c y).chan? k' c' = s.chan? k' c' := by
  unfold State.chan?
  simp only [State.setChan_ch, List.getElem?_modify]
  by_cases hk : k = k'
  · subst hk
    have hc : c ≠ c' := fun e => h (by rw [e])
    cases hrow : s.ch[k]? with
    | none => simp
    | some row => simp [List.getElem?_set_ne hc]
  · simp only [hk, if_false]
    cases s.ch[k']? <;> rfl

theorem withChannel_eq_next {k c : Nat} {s t : State} {f : Channel → Out} :
    withChannel k c s f = .next t ↔ ∃ x, s.chan? k c = some x ∧ f x = .next t := by
  unfold withChannel
  cases s.chan? k c <;> simp

theorem withModule_eq_next {k : Nat} {s t : State} {f : PulseModule → Out} :
    withModule k s f = .next t ↔ ∃ m, s.cfg.pm[k]? = some m ∧ f m = .next t := by
  unfold withModule
  cases s.cfg.pm[k]? <;> simp

theorem withEntry_eq_next {s t : State} {f : RegEntry → Out} :
    withEntry s f = .next t ↔ ∃ e, s.cfg.reg[s.cur]? = some e ∧ f e = .next t := by
  unfold withEntry
  cases s.cfg.reg[s.cur]? <;> simp

theorem withChannel_some {k c : Nat} {s : State} {x : Channel} (h : s.chan? k c = some x) (f : Channel → Out) :
    withChannel k c s f = f x := by simp [withChannel, h]

theorem withModule_some {k : Nat} {s : State} {m : PulseModule} (h : s.cfg.pm[k]? = some m) (f : PulseModule → Out) :
    withModule k s f = f m := by simp [withModule, h]

theorem withEntry_some {s : State} {e : RegEntry} (h : s.cfg.reg[s.cur]? = some e) (f : RegEntry → Out) :
    withEntry s f = f e := by simp [withEntry, h]

/-! ## Streams and lines -/

theorem State.rxPop_eq_some {s s' : State} {b : Byte} :
    s.rxPop = some (b, s') ↔ ∃ rest, s.rxq = b :: rest ∧ s' = { s with rxq := rest } := by
  unfold State.rxPop
  cases h : s.rxq with
  | nil => simp
  | cons a l =>
    simp only [Option.some.injEq, Prod.mk.injEq, List.cons.injEq]
    exact ⟨fun ⟨e, e'⟩ => ⟨l, ⟨e, rfl⟩, e'.symm⟩, fun ⟨_, ⟨e, e1⟩, e2⟩ => ⟨e, by rw [e2, e1]⟩⟩

theorem State.rxPop_eq_none {s : State} : s.rxPop = none ↔ s.rxq = [] := by
  unfold State.rxPop
  cases s.rxq <;> simp

/-- `ChangeLine` (43_report_encoder R178): one line, for a channel of the configuration. -/
theorem changeLine_eq_next {k c : Nat} {w : Half} {s t : State} :
    changeLine k c w s = .next t ↔
      ∃ m, s.cfg.pm[k]? = some m ∧ c < m.nch ∧
        t = s.emitLine (reportBytes s.cfg kindChange m.letter c w) := by
  unfold changeLine
  rw [withModule_eq_next]
  refine exists_congr fun m => and_congr_right fun _ => ?_
  split <;> simp_all [eq_comm]

/-- `FullLine` (R179): one line, with the held width. -/
theorem fullLine_eq_next {k c : Nat} {s t : State} :
    fullLine k c s = .next t ↔
      ∃ m x, s.cfg.pm[k]? = some m ∧ s.chan? k c = some x ∧
        t = s.emitLine (reportBytes s.cfg kindFull m.letter c x.lastWidth) := by
  unfold fullLine
  rw [withModule_eq_next]
  simp only [withChannel_eq_next]
  constructor
  · rintro ⟨m, hm, x, hx, h⟩
    simp only [Host.Outcome.next.injEq] at h
    exact ⟨m, x, hm, hx, h.symm⟩
  · rintro ⟨m, x, hm, hx, rfl⟩
    exact ⟨m, hm, x, hx, rfl⟩

/-- `OpReport`'s lines only append to `tx` (44_modules R194). -/
theorem fullLines_eq_next {k : Nat} {cs : List Nat} {s t : State} (h : fullLines k cs s = .next t) :
    ∃ lines : List (List Byte), t = s.txEmit ((lines.map (· ++ s.cfg.eol)).flatten) := by
  induction cs generalizing s with
  | nil =>
    simp only [fullLines, Host.Outcome.next.injEq] at h
    exact ⟨[], by simp [State.txEmit, h]⟩
  | cons c cs ih =>
    simp only [fullLines, andThen_eq_next] at h
    obtain ⟨s1, h1, h2⟩ := h
    obtain ⟨m, x, -, -, rfl⟩ := fullLine_eq_next.1 h1
    obtain ⟨lines, rfl⟩ := ih h2
    exact ⟨reportBytes s.cfg kindFull m.letter c x.lastWidth :: lines,
      by simp [State.txEmit, State.emitLine]⟩

/-! ## POLL and the change report -/

/-- POLL on one channel (41_pulse_channel R120): nothing without a sample; else the flag is cleared, the width of
`Channel.width` is held and returned. -/
theorem Channel.poll_cases (cfg : Config) (x : Channel) :
    (x.hasNew = false ∧ x.poll cfg = (x, none)) ∨
      (x.hasNew = true ∧
        x.poll cfg = ({ x with hasNew := false, lastWidth := x.width cfg }, some (x.width cfg))) := by
  unfold Channel.poll
  cases x.hasNew <;> simp

/-- `UpdateChannel` (44_modules R192): no sample, nothing; a sample of the held width, the channel only; a sample of
another width, the channel and one change report. -/
theorem observeChannel_eq_next {k c : Nat} {s t : State} :
    observeChannel k c s = .next t ↔
      ∃ x, s.chan? k c = some x ∧
        ((x.hasNew = false ∧ t = s) ∨
         (x.hasNew = true ∧ x.width s.cfg = x.lastWidth ∧
           t = s.setChan k c { x with hasNew := false, lastWidth := x.width s.cfg }) ∨
         (x.hasNew = true ∧ x.width s.cfg ≠ x.lastWidth ∧
           ∃ m, s.cfg.pm[k]? = some m ∧ c < m.nch ∧
             t = (s.setChan k c { x with hasNew := false, lastWidth := x.width s.cfg }).emitLine
               (reportBytes s.cfg kindChange m.letter c (x.width s.cfg)))) := by
  unfold observeChannel
  rw [withChannel_eq_next]
  refine exists_congr fun x => and_congr_right fun _ => ?_
  rcases Channel.poll_cases s.cfg x with ⟨h, hp⟩ | ⟨h, hp⟩
  · simp [h, hp, eq_comm]
  · by_cases hw : x.width s.cfg = x.lastWidth
    · simp [h, hp, hw, eq_comm]
    · simp [h, hp, hw, changeLine_eq_next]

/-- Where UPDATE_STEP leaves the sequencer (44_modules R193). -/
theorem advanceUpdate_eq_next {k c : Nat} {s t : State} :
    advanceUpdate k c s = .next t ↔
      ∃ m, s.cfg.pm[k]? = some m ∧
        t = { s with mstate := if c + 1 < m.nch then .inUpdate k (c + 1) else .idle } := by
  unfold advanceUpdate
  rw [withModule_eq_next]
  simp [eq_comm]

/-! ## Command handlers -/

/-- SERVO_RAW (44_modules R196): dropped, or the write and the echo. -/
theorem servoRawHandler_cases (op b val : Byte) (s : State) :
    (idxOk s.cfg b s.cfg.nservo = false ∧ servoRawHandler op b val s = .next s) ∨
      (idxOk s.cfg b s.cfg.nservo = true ∧
        servoRawHandler op b val s =
          .next (ackLine op [b, val] (s.servoWrite (unindex s.cfg b) (zext16 val) false))) := by
  unfold servoRawHandler
  cases idxOk s.cfg b s.cfg.nservo <;> simp

/-- SERVO_HEX (44_modules R197): dropped, or the write and the echo. -/
theorem servoHexHandler_cases (op b h3 h2 h1 h0 : Byte) (s : State) :
    ((idxOk s.cfg b s.cfg.nservo = false ∨ hexdec4 h3 h2 h1 h0 = none) ∧
        servoHexHandler op b h3 h2 h1 h0 s = .next s) ∨
      (∃ v, idxOk s.cfg b s.cfg.nservo = true ∧ hexdec4 h3 h2 h1 h0 = some v ∧
        servoHexHandler op b h3 h2 h1 h0 s =
          .next (ackLine op [b, h3, h2, h1, h0] (s.servoWrite (unindex s.cfg b) v true))) := by
  unfold servoHexHandler
  cases idxOk s.cfg b s.cfg.nservo <;> cases hexdec4 h3 h2 h1 h0 <;> simp

/-- Every handler answers a next state, and it only appends whole lines to `tx` and writes of internal servo indexes
to `servo_out`, and may draw a free value. -/
theorem runHandler_cases (h : Handler) (op : Byte) (p : List Byte) (s : State) :
    ∃ (lines : List (List Byte)) (ws : List ServoWrite) (n : Nat),
      (∀ w ∈ ws, w.idx < s.cfg.nservo) ∧
      runHandler h op p s = .next { s with
        tx := s.tx ++ (lines.map (· ++ s.cfg.eol)).flatten
        servoOut := s.servoOut ++ ws
        freeCount := n } := by
  have stay : ∃ (lines : List (List Byte)) (ws : List ServoWrite) (n : Nat),
      (∀ w ∈ ws, w.idx < s.cfg.nservo) ∧ (Host.Outcome.next s : Out) = .next { s with
        tx := s.tx ++ (lines.map (· ++ s.cfg.eol)).flatten
        servoOut := s.servoOut ++ ws
        freeCount := n } := ⟨[], [], s.freeCount, by simp, by simp⟩
  have idx : ∀ b : Byte, idxOk s.cfg b s.cfg.nservo = true → unindex s.cfg b < s.cfg.nservo := by
    intro b hb
    simp only [idxOk, Bool.and_eq_true, decide_eq_true_eq] at hb
    unfold unindex
    omega
  unfold runHandler
  split
  · rename_i b val
    rcases servoRawHandler_cases op b val s with ⟨-, e⟩ | ⟨hb, e⟩
    · rw [e]; exact stay
    · rw [e]
      exact ⟨[[op, b, val]], [⟨unindex s.cfg b, zext16 val, false⟩], s.freeCount,
        by simpa using idx b hb, by simp [ackLine, State.emitLine, State.txEmit, State.servoWrite]⟩
  · rename_i b h3 h2 h1 h0
    rcases servoHexHandler_cases op b h3 h2 h1 h0 s with ⟨-, e⟩ | ⟨v, hb, -, e⟩
    · rw [e]; exact stay
    · rw [e]
      exact ⟨[[op, b, h3, h2, h1, h0]], [⟨unindex s.cfg b, v, true⟩], s.freeCount,
        by simpa using idx b hb, by simp [ackLine, State.emitLine, State.txEmit, State.servoWrite]⟩
  · rename_i n
    exact ⟨Config.externalLines n s.freeCount op p, [], s.freeCount + 1, by simp,
      by simp [externalHandler, State.txEmit]⟩
  · exact stay

end Sys2Proof.Machine
end

