-- ==== Sys2Proof/Laws/Exec.lean ====
section
/-! SUPPORT. `exec` on each instruction is that instruction's meaning: one lemma per arm, so that no proof unfolds
`exec`; and for each meaning with more than one way to end, every state it can answer. -/

namespace Sys2Proof.Machine

variable (s : State)

@[simp] theorem exec_servoRaw (b val : Byte) : exec (.servoRaw b val) s = execServoRaw b val s := rfl
@[simp] theorem exec_servoHex (b h3 h2 h1 h0 : Byte) : exec (.servoHex b h3 h2 h1 h0) s = execServoHex b h3 h2 h1 h0 s := rfl
@[simp] theorem exec_unregistered (b : Byte) : exec (.unregistered b) s = execUnregistered b s := rfl
@[simp] theorem exec_changeReport (k c : Nat) (w : Half) : exec (.changeReport k c w) s = execChangeReport k c w s := rfl
@[simp] theorem exec_fullReport (k c : Nat) : exec (.fullReport k c) s = execFullReport k c s := rfl
@[simp] theorem exec_ackServoRaw (b val : Byte) : exec (.ackServoRaw b val) s = execAckServoRaw b val s := rfl
@[simp] theorem exec_ackServoHex (b h3 h2 h1 h0 : Byte) : exec (.ackServoHex b h3 h2 h1 h0) s = execAckServoHex b h3 h2 h1 h0 s := rfl
@[simp] theorem exec_timerTick : exec .timerTick s = execTimerTick s := rfl
@[simp] theorem exec_rise (k c : Nat) : exec (.rise k c) s = execRise k c s := rfl
@[simp] theorem exec_fall (k c : Nat) : exec (.fall k c) s = execFall k c s := rfl
@[simp] theorem exec_rxByte (d : Byte) : exec (.rxByte d) s = execRxByte d s := rfl
@[simp] theorem exec_opDispatch : exec .opDispatch s = execOpDispatch s := rfl
@[simp] theorem exec_opUpdate (k : Nat) : exec (.opUpdate k) s = execOpUpdate k s := rfl
@[simp] theorem exec_opReport (k : Nat) : exec (.opReport k) s = execOpReport k s := rfl
@[simp] theorem exec_reset : exec .reset s = execReset s := rfl
@[simp] theorem exec_payloadByte : exec .payloadByte s = execPayloadByte s := rfl
@[simp] theorem exec_frameTimeout : exec .frameTimeout s = execFrameTimeout s := rfl
@[simp] theorem exec_dispatchExec : exec .dispatchExec s = execDispatchExec s := rfl
@[simp] theorem exec_updateStep : exec .updateStep s = execUpdateStep s := rfl
@[simp] theorem exec_poll (k c : Nat) : exec (.poll k c) s = execPoll k c s := rfl
@[simp] theorem exec_updateChannel (k c : Nat) : exec (.updateChannel k c) s = execUpdateChannel k c s := rfl
@[simp] theorem exec_hexdigit (n : Nibble) : exec (.hexdigit n) s = execHexdigit n s := rfl
@[simp] theorem exec_hex2 (b : Byte) : exec (.hex2 b) s = execHex2 b s := rfl
@[simp] theorem exec_hex4 (v : Half) : exec (.hex4 v) s = execHex4 v s := rfl
@[simp] theorem exec_hex8 (v : Quad) : exec (.hex8 v) s = execHex8 v s := rfl
@[simp] theorem exec_hexval (ch : Byte) : exec (.hexval ch) s = execHexval ch s := rfl
@[simp] theorem exec_hexdec4 (h3 h2 h1 h0 : Byte) : exec (.hexdec4 h3 h2 h1 h0) s = execHexdec4 h3 h2 h1 h0 s := rfl
@[simp] theorem exec_txLine (bytes : List Byte) : exec (.txLine bytes) s = execTxLine bytes s := rfl

/-! ## What each meaning can answer -/

variable {s}

theorem execRise_eq_next {k c : Nat} {t : State} :
    execRise k c s = .next t ↔ ∃ x, s.chan? k c = some x ∧ t = s.setChan k c (x.stampRise s.timer) := by
  unfold execRise
  rw [withChannel_eq_next]
  simp [State.now, eq_comm]

theorem execFall_eq_next {k c : Nat} {t : State} :
    execFall k c s = .next t ↔ ∃ x, s.chan? k c = some x ∧ t = s.setChan k c (x.stampFall s.timer) := by
  unfold execFall
  rw [withChannel_eq_next]
  simp [State.now, eq_comm]

/-- POLL: without a sample only the result is written; with one the channel is, too. -/
theorem execPoll_eq_next {k c : Nat} {t : State} :
    execPoll k c s = .next t ↔
      ∃ x, s.chan? k c = some x ∧
        ((x.hasNew = false ∧ t = s.setResult (.poll none)) ∨
         (x.hasNew = true ∧
           t = (s.setChan k c { x with hasNew := false, lastWidth := x.width s.cfg }).setResult
             (.poll (some (x.width s.cfg))))) := by
  unfold execPoll
  rw [withChannel_eq_next]
  refine exists_congr fun x => and_congr_right fun _ => ?_
  rcases Channel.poll_cases s.cfg x with ⟨h, hp⟩ | ⟨h, hp⟩ <;> simp [h, hp, eq_comm]

/-- RX_BYTE: the byte is taken, or (receive queue full) nothing happens. -/
theorem execRxByte_cases (d : Byte) (s : State) :
    (s.rxReady = true ∧ execRxByte d s = .next (s.rxPush d)) ∨
      (s.rxReady = false ∧ execRxByte d s = .next s) := by
  unfold execRxByte
  cases s.rxReady <;> simp

/-- OP_DISPATCH: nothing, or one unregistered byte discarded, or a frame begun. -/
theorem execOpDispatch_cases (s : State) :
    ((s.mstate ≠ .idle ∨ s.rxq = []) ∧ execOpDispatch s = .next s) ∨
      (∃ b rest, s.mstate = .idle ∧ s.rxq = b :: rest ∧ lookup s.cfg b = none ∧
        execOpDispatch s = .next { s with rxq := rest }) ∨
      (∃ b rest i e, s.mstate = .idle ∧ s.rxq = b :: rest ∧ lookup s.cfg b = some (i, e) ∧
        execOpDispatch s = .next (beginFrame i e { s with rxq := rest })) := by
  unfold execOpDispatch
  by_cases hm : s.mstate = .idle
  · cases hr : s.rxq with
    | nil => simp [State.rxPop, hr, hm]
    | cons b rest => rcases hl : lookup s.cfg b with _ | ⟨i, e⟩ <;> simp [State.rxPop, hr, hl, hm]
  · simp [hm]

/-- UNREGISTERED: nothing, or the oldest byte discarded. -/
theorem execUnregistered_cases (b : Byte) (s : State) :
    execUnregistered b s = .next s ∨
      (∃ rest, s.mstate = .idle ∧ s.rxq = b :: rest ∧ isUnregistered s.cfg b = true ∧
        execUnregistered b s = .next { s with rxq := rest }) := by
  unfold execUnregistered
  by_cases hm : s.mstate = .idle ∧ isUnregistered s.cfg b = true
  · cases hr : s.rxq with
    | nil => simp [State.rxPop, hr]
    | cons b' rest =>
      by_cases hb : b' = b
      · exact .inr ⟨rest, hm.1, by rw [hb], hm.2, by simp [State.rxPop, hr, hm, hb]⟩
      · exact .inl (by simp [State.rxPop, hr, hb])
  · exact .inl (by simp [hm])

/-- PAYLOAD_BYTE: nothing, or the oldest byte stored. -/
theorem execPayloadByte_eq_next {t : State} (h : execPayloadByte s = .next t) :
    t = s ∨ ∃ b rest e, s.dstate = .awaitingPayload ∧ s.rxq = b :: rest ∧ s.cfg.reg[s.cur]? = some e ∧
      t = { s with
        rxq := rest
        buf := s.buf.set s.cnt b
        cnt := s.cnt + 1
        dstate := if s.cnt + 1 = e.len then .dispatching else s.dstate } := by
  unfold execPayloadByte at h
  split at h
  · next hd =>
    split at h
    · cases h; exact .inl rfl
    · next b s1 hp =>
      obtain ⟨rest, hr, rfl⟩ := State.rxPop_eq_some.1 hp
      obtain ⟨e, he, h⟩ := withEntry_eq_next.1 h
      cases h
      exact .inr ⟨b, rest, e, hd, hr, he, rfl⟩
  · cases h; exact .inl rfl

/-- FRAME_TIMEOUT: nothing, or the frame abandoned. -/
theorem execFrameTimeout_cases (s : State) :
    (s.timeoutEnabled = true ∧ execFrameTimeout s = .next (s.setMain .awaitingOpcode .idle)) ∨
      (s.timeoutEnabled = false ∧ execFrameTimeout s = .next s) := by
  unfold execFrameTimeout
  cases s.timeoutEnabled <;> simp

/-- DISPATCH_EXEC: nothing, or the entry's handler and the main context free again. -/
theorem execDispatchExec_eq_next {t : State} (h : execDispatchExec s = .next t) :
    t = s ∨ ∃ e u, s.dstate = .dispatching ∧ s.cfg.reg[s.cur]? = some e ∧
      runHandler e.handler e.opcode (s.payload e) s = .next u ∧ t = u.setMain .awaitingOpcode .idle := by
  unfold execDispatchExec at h
  split at h
  · next hd =>
    obtain ⟨e, he, h⟩ := withEntry_eq_next.1 h
    obtain ⟨u, hu, h⟩ := andThen_eq_next.1 h
    cases h
    exact .inr ⟨e, u, hd, he, hu, rfl⟩
  · cases h; exact .inl rfl

/-- OP_UPDATE: nothing, or the sequencer at channel 0. -/
theorem execOpUpdate_eq_next {k : Nat} {t : State} :
    execOpUpdate k s = .next t ↔
      ∃ m, s.cfg.pm[k]? = some m ∧
        ((s.mstate ≠ .idle ∧ t = s) ∨ (s.mstate = .idle ∧ t = { s with mstate := .inUpdate k 0 })) := by
  unfold execOpUpdate
  rw [withModule_eq_next]
  refine exists_congr fun m => and_congr_right fun _ => ?_
  by_cases hm : s.mstate = .idle <;> simp [hm, eq_comm]

/-- UPDATE_STEP: nothing, or the current channel observed and the sequencer moved on. -/
theorem execUpdateStep_eq_next {t : State} (h : execUpdateStep s = .next t) :
    t = s ∨ ∃ k c u m, s.mstate = .inUpdate k c ∧ observeChannel k c s = .next u ∧ u.cfg.pm[k]? = some m ∧
      t = { u with mstate := if c + 1 < m.nch then .inUpdate k (c + 1) else .idle } := by
  unfold execUpdateStep at h
  split at h
  · next k c hm =>
    obtain ⟨u, hu, h⟩ := andThen_eq_next.1 h
    obtain ⟨m, hm', rfl⟩ := advanceUpdate_eq_next.1 h
    exact .inr ⟨k, c, u, m, hm, hu, hm', rfl⟩
  · cases h; exact .inl rfl

/-- OP_REPORT: nothing, or whole lines appended to `tx`. -/
theorem execOpReport_eq_next {k : Nat} {t : State} (h : execOpReport k s = .next t) :
    ∃ lines : List (List Byte), t = s.txEmit ((lines.map (· ++ s.cfg.eol)).flatten) := by
  obtain ⟨m, -, h⟩ := withModule_eq_next.1 h
  split at h
  · exact fullLines_eq_next h
  · cases h; exact ⟨[], by simp [State.txEmit]⟩

/-! ## What the step fetches -/

/-- Nothing, the block's own enabled micro-step, or the oldest pending signal. -/
theorem State.fetch_cases (s : State) :
    (s.fetch = none ∧ s.pending = [] ∧ s.enabledMicro = none) ∨
      (∃ m, s.fetch = some (.internal m, s) ∧ s.pending = [] ∧ s.enabledMicro = some m) ∨
      (∃ g rest, s.fetch = some (g, { s with pending := rest }) ∧ s.pending = g :: rest) := by
  unfold State.fetch
  cases hp : s.pending with
  | nil => cases hm : s.enabledMicro <;> simp
  | cons g rest => simp

theorem strobe_eq_ok {n : Nat} {i j : Instr} (h : strobe n i = .ok j) : j = i := by
  unfold strobe at h
  split at h
  · cases h; rfl
  · split at h <;> cases h

/-- A decoded signal is a well-formed operation of the configuration. -/
theorem decodeSignal_wf {cfg : Config} {g : Signal} {i : Instr} (h : decodeSignal cfg g = .ok i) :
    i.wf cfg = true := by
  cases g with
  | internal m => cases h; cases m <;> rfl
  | port p n =>
    simp only [decodeSignal, decodePort] at h
    cases p <;> simp only at h
    case rx =>
      split at h
      · cases h
      · split at h <;> cases h; rfl
    all_goals first | (split at h; swap; cases h) | skip
    all_goals rw [strobe_eq_ok h]; first | assumption | rfl

end Sys2Proof.Machine
end

