-- ==== Sys2Proof/Laws/Pending.lean ====
section
/-! SUPPORT. What stands in `pending` has no influence on what an operation does (00_scope R12): `exec` commutes with a
change of the pending signals. -/

namespace Sys2Proof.Machine

/-- `s` with other signals pending. -/
def State.withPending (s : State) (p : List Signal) : State := { s with pending := p }

/-- An outcome with other signals pending. -/
def withPending (p : List Signal) (o : Out) : Out := andThen o fun t => .next (t.withPending p)

variable {s : State} {p : List Signal}

@[simp] theorem State.withPending_mstate : (s.withPending p).mstate = s.mstate := rfl
@[simp] theorem State.withPending_dstate : (s.withPending p).dstate = s.dstate := rfl
@[simp] theorem State.withPending_rxq : (s.withPending p).rxq = s.rxq := rfl
@[simp] theorem State.withPending_cfg : (s.withPending p).cfg = s.cfg := rfl
@[simp] theorem State.withPending_pending : (s.withPending p).pending = p := rfl
@[simp] theorem State.withPending_cur : (s.withPending p).cur = s.cur := rfl
@[simp] theorem State.withPending_chan? (k c : Nat) : (s.withPending p).chan? k c = s.chan? k c := rfl

@[simp] theorem withPending_next (t : State) : withPending p (.next t) = .next (t.withPending p) := rfl
@[simp] theorem withPending_fault (r : Fault) : withPending p (.fault r) = .fault r := rfl

theorem andThen_withPending {o o' : Out} {f g : State → Out} (ho : o' = withPending p o)
    (hf : ∀ t, g (t.withPending p) = withPending p (f t)) : andThen o' g = withPending p (andThen o f) := by
  subst ho
  cases o <;> first | rfl | exact hf _

theorem withChannel_withPending {k c : Nat} {f g : Channel → Out} (h : ∀ x, g x = withPending p (f x)) :
    withChannel k c (s.withPending p) g = withPending p (withChannel k c s f) := by
  unfold withChannel
  rw [State.withPending_chan?]
  cases s.chan? k c
  · rfl
  · exact h _

theorem withModule_withPending {k : Nat} {f g : PulseModule → Out} (h : ∀ m, g m = withPending p (f m)) :
    withModule k (s.withPending p) g = withPending p (withModule k s f) := by
  unfold withModule
  rw [State.withPending_cfg]
  cases s.cfg.pm[k]?
  · rfl
  · exact h _

theorem withEntry_withPending {f g : RegEntry → Out} (h : ∀ e, g e = withPending p (f e)) :
    withEntry (s.withPending p) g = withPending p (withEntry s f) := by
  unfold withEntry
  rw [State.withPending_cfg, State.withPending_cur]
  cases s.cfg.reg[s.cur]?
  · rfl
  · exact h _

theorem State.rxPop_withPending :
    (s.withPending p).rxPop = s.rxPop.map fun q => (q.1, q.2.withPending p) := by
  unfold State.rxPop
  rw [State.withPending_rxq]
  cases s.rxq <;> rfl

theorem changeLine_withPending (k c : Nat) (w : Half) :
    changeLine k c w (s.withPending p) = withPending p (changeLine k c w s) :=
  withModule_withPending fun m => by split <;> rfl

theorem fullLine_withPending (k c : Nat) : fullLine k c (s.withPending p) = withPending p (fullLine k c s) :=
  withModule_withPending fun _ => withChannel_withPending fun _ => rfl

theorem fullLines_withPending (k : Nat) (cs : List Nat) :
    fullLines k cs (s.withPending p) = withPending p (fullLines k cs s) := by
  induction cs generalizing s with
  | nil => rfl
  | cons c cs ih => exact andThen_withPending (fullLine_withPending k c) fun _ => ih

theorem observeChannel_withPending (k c : Nat) :
    observeChannel k c (s.withPending p) = withPending p (observeChannel k c s) :=
  withChannel_withPending fun x => by
    rw [State.withPending_cfg]
    rcases x.poll s.cfg with ⟨x', _ | w⟩
    · rfl
    · by_cases hw : w = x.lastWidth
      · simp only [hw, ne_eq, not_true, if_false]; rfl
      · simp only [hw, ne_eq, not_false_eq_true, if_true]
        exact changeLine_withPending (s := s.setChan k c x') k c w

theorem runHandler_withPending (h : Handler) (op : Byte) (bytes : List Byte) :
    runHandler h op bytes (s.withPending p) = withPending p (runHandler h op bytes s) := by
  unfold runHandler
  split
  · unfold servoRawHandler
    rw [State.withPending_cfg]
    split <;> rfl
  · unfold servoHexHandler
    rw [State.withPending_cfg]
    split <;> (try split) <;> rfl
  · rfl
  · rfl

/-- Every operation does the same whatever else is pending. -/
theorem exec_withPending (i : Instr) : exec i (s.withPending p) = withPending p (exec i s) := by
  cases i
  case servoRaw b v => exact runHandler_withPending .servoRaw opServoRaw [b, v]
  case servoHex b h3 h2 h1 h0 => exact runHandler_withPending .servoHex s.cfg.opServoHex [b, h3, h2, h1, h0]
  case unregistered b =>
    show (if s.mstate = .idle ∧ isUnregistered s.cfg b = true then _ else _) =
      withPending p (if s.mstate = .idle ∧ isUnregistered s.cfg b = true then _ else _)
    split
    · rw [State.rxPop_withPending]
      rcases s.rxPop with _ | ⟨b', s1⟩
      · rfl
      · by_cases hb : b' = b <;> simp [hb]
    · rfl
  case changeReport k c w => exact changeLine_withPending k c w
  case fullReport k c => exact fullLine_withPending k c
  case rise k c => exact withChannel_withPending fun _ => rfl
  case fall k c => exact withChannel_withPending fun _ => rfl
  case rxByte d =>
    show (if s.rxReady then _ else _) = withPending p (if s.rxReady then _ else _)
    split <;> rfl
  case opDispatch =>
    show (if s.mstate = .idle then _ else _) = withPending p (if s.mstate = .idle then _ else _)
    split
    · rw [State.rxPop_withPending]
      rcases s.rxPop with _ | ⟨b, s1⟩
      · rfl
      · simp only [Option.map_some, State.withPending_cfg]
        rcases lookup s.cfg b with _ | ⟨i, e⟩ <;> rfl
    · rfl
  case opUpdate k =>
    exact withModule_withPending fun _ => by
      show (if s.mstate = .idle then _ else _) = _
      split <;> rfl
  case opReport k =>
    exact withModule_withPending fun m => by
      show (if s.mstate = .idle then _ else _) = _
      split
      · exact fullLines_withPending k _
      · rfl
  case payloadByte =>
    show (if s.dstate = .awaitingPayload then _ else _) = withPending p (if s.dstate = .awaitingPayload then _ else _)
    split
    · rw [State.rxPop_withPending]
      rcases s.rxPop with _ | ⟨b, s1⟩
      · rfl
      · exact withEntry_withPending fun _ => rfl
    · rfl
  case frameTimeout =>
    show (if s.timeoutEnabled then _ else _) = withPending p (if s.timeoutEnabled then _ else _)
    split <;> rfl
  case dispatchExec =>
    show (if s.dstate = .dispatching then _ else _) = withPending p (if s.dstate = .dispatching then _ else _)
    split
    · exact withEntry_withPending fun e => andThen_withPending (runHandler_withPending _ _ _) fun _ => rfl
    · rfl
  case updateStep =>
    simp only [exec_updateStep, execUpdateStep, State.withPending_mstate]
    split
    · exact andThen_withPending (observeChannel_withPending _ _) fun t => withModule_withPending fun _ => rfl
    · rfl
  case poll k c =>
    exact withChannel_withPending fun x => by
      rw [State.withPending_cfg]
      rcases x.poll s.cfg with ⟨x', _ | w⟩ <;> rfl
  case updateChannel k c => exact observeChannel_withPending k c
  all_goals rfl

end Sys2Proof.Machine
end

