-- ==== Sys2Proof/Laws/PerInstr.lean ====
section
/-! SUPPORT. The family EncodingWidth: each instruction's encoding has the width its row of spec/opcode_table.json
gives, whatever its operands. -/

namespace Sys2Proof.Laws.EncodingWidth

/-- The width in bits of an encoded object: the bytes of a frame or line, the bits of a port's row, none for a
micro-step. -/
def bits : Encoding → Nat
  | .frame bytes => 8 * bytes.length
  | .line bytes => 8 * bytes.length
  | .signal (.port .rx _) => 9
  | .signal (.port _ _) => 1
  | .signal (.internal _) => 0

/-- The table's `width_bits`; `none` for the called functions, which have no encoding. -/
def tableBits : Instr → Option Nat
  | .servoRaw _ _ => some 24
  | .servoHex _ _ _ _ _ => some 48
  | .unregistered _ => some 8
  | .changeReport _ _ _ => some 56
  | .fullReport _ _ => some 56
  | .ackServoRaw _ _ => some 24
  | .ackServoHex _ _ _ _ _ => some 48
  | .timerTick => some 1
  | .rise _ _ => some 1
  | .fall _ _ => some 1
  | .rxByte _ => some 9
  | .opDispatch => some 1
  | .opUpdate _ => some 1
  | .opReport _ => some 1
  | .reset => some 1
  | .payloadByte => some 0
  | .frameTimeout => some 0
  | .dispatchExec => some 0
  | .updateStep => some 0
  | .poll _ _ => none
  | .updateChannel _ _ => none
  | .hexdigit _ => none
  | .hex2 _ => none
  | .hex4 _ => none
  | .hex8 _ => none
  | .hexval _ => none
  | .hexdec4 _ _ _ _ => none
  | .txLine _ => none

/-- The encoding of `i` is as wide as its row of the table. -/
def Statement (i : Instr) : Prop :=
  ∀ (cfg : Config) (held : Half), (encode cfg held i).map bits = tableBits i

theorem servoRaw (b val : Byte) : Statement (.servoRaw b val) := fun _ _ => rfl
theorem servoHex (b h3 h2 h1 h0 : Byte) : Statement (.servoHex b h3 h2 h1 h0) := fun _ _ => rfl
theorem unregistered (b : Byte) : Statement (.unregistered b) := fun _ _ => rfl
theorem changeReport (k c : Nat) (w : Half) : Statement (.changeReport k c w) := fun _ _ => rfl
theorem fullReport (k c : Nat) : Statement (.fullReport k c) := fun _ _ => rfl
theorem ackServoRaw (b val : Byte) : Statement (.ackServoRaw b val) := fun _ _ => rfl
theorem ackServoHex (b h3 h2 h1 h0 : Byte) : Statement (.ackServoHex b h3 h2 h1 h0) := fun _ _ => rfl
theorem timerTick : Statement .timerTick := fun _ _ => rfl
theorem rise (k c : Nat) : Statement (.rise k c) := fun _ _ => rfl
theorem fall (k c : Nat) : Statement (.fall k c) := fun _ _ => rfl
theorem rxByte (d : Byte) : Statement (.rxByte d) := fun _ _ => rfl
theorem opDispatch : Statement .opDispatch := fun _ _ => rfl
theorem opUpdate (k : Nat) : Statement (.opUpdate k) := fun _ _ => rfl
theorem opReport (k : Nat) : Statement (.opReport k) := fun _ _ => rfl
theorem reset : Statement .reset := fun _ _ => rfl
theorem payloadByte : Statement .payloadByte := fun _ _ => rfl
theorem frameTimeout : Statement .frameTimeout := fun _ _ => rfl
theorem dispatchExec : Statement .dispatchExec := fun _ _ => rfl
theorem updateStep : Statement .updateStep := fun _ _ => rfl
theorem poll (k c : Nat) : Statement (.poll k c) := fun _ _ => rfl
theorem updateChannel (k c : Nat) : Statement (.updateChannel k c) := fun _ _ => rfl
theorem hexdigit (n : Nibble) : Statement (.hexdigit n) := fun _ _ => rfl
theorem hex2 (b : Byte) : Statement (.hex2 b) := fun _ _ => rfl
theorem hex4 (v : Half) : Statement (.hex4 v) := fun _ _ => rfl
theorem hex8 (v : Quad) : Statement (.hex8 v) := fun _ _ => rfl
theorem hexval (ch : Byte) : Statement (.hexval ch) := fun _ _ => rfl
theorem hexdec4 (h3 h2 h1 h0 : Byte) : Statement (.hexdec4 h3 h2 h1 h0) := fun _ _ => rfl
theorem txLine (bytes : List Byte) : Statement (.txLine bytes) := fun _ _ => rfl

end Sys2Proof.Laws.EncodingWidth
end

