-- ==== Sys2Proof/Tests/Slice0.lean ====
section
/-! SUPPORT. Tests. Expected results are the spec's: words written out from 30_encoding and 10_state R39, and the
vectors of 95_test_vectors named in each docstring. After them, for each obligation with hypotheses, a witness that
meets all of them together. -/

namespace Sys2Proof.Tests

open Sys2Proof Sys2Proof.Machine

/-! ## Helpers -/

/-- The outcome is a next state that passes `p`. -/
def check (o : Out) (p : State → Bool) : Bool :=
  match o with
  | .next t => p t
  | _ => false

/-- The outcome is this fault. -/
def faults (o : Out) (f : Fault) : Bool :=
  match o with
  | .fault g => decide (g = f)
  | _ => false

/-- The outcome is this refusal. -/
def refuses (o : Out) (r : Refusal) : Bool :=
  match o with
  | .refused q => decide (q = r)
  | _ => false

/-- The reset state of EXCFG with another `TIMER` and channel (k, c). -/
def st (timer k c : Nat) (x : Channel) : State := { State.reset.setChan k c x with timer := timer }

/-- The reset state with received bytes. -/
def received (bytes : List Byte) : State := { State.reset with rxq := bytes }

/-- A frame of entry `cur` being collected: `cnt` payload bytes are in, `rxq` is what is queued. -/
def collecting (cur cnt t0 timer : Nat) (rxq : List Byte) : State :=
  { State.reset with
    cur := cur
    cnt := cnt
    frameT0 := t0
    timer := timer
    rxq := rxq
    dstate := .awaitingPayload
    mstate := .inDispatch }

/-- A complete frame of entry `cur` with `payload` in `buf`. -/
def routed (cur : Nat) (payload : List Byte) : State :=
  { State.reset with
    cur := cur
    cnt := payload.length
    buf := payload ++ State.reset.buf.drop payload.length
    dstate := .dispatching
    mstate := .inDispatch }

/-- EXCFG with a third entry of a module outside the block, opcode 0x3F and no payload (vector CD-14). -/
def withExternal : Config := { Config.excfg with reg := Config.excfg.reg ++ [⟨0x3F, 0, .external 7⟩] }

/-! ## Well-formedness: ill-formed terms are refused -/

theorem test_wf_refuses_channels :
    [Instr.rise 2 0, .fall 0 2, .poll 1 1, .updateChannel 0 2, .changeReport 2 0 0, .fullReport 1 1].all
      (fun i => !i.wf Config.excfg) = true := by decide

theorem test_wf_refuses_modules_and_registered_byte :
    [Instr.opUpdate 2, .opReport 2, .unregistered 0x53].all (fun i => !i.wf Config.excfg) = true := by decide

theorem test_wf_accepts_last_channel_and_module :
    [Instr.rise 0 1, .fall 1 0, .opUpdate 1, .opReport 1, .unregistered 0x58].all (·.wf Config.excfg) = true := by
  decide

theorem test_config_wf_accepts_excfg : Config.excfg.wf = true ∧ withExternal.wf = true := by decide

theorem test_config_wf_refuses_opcodes_and_letters :
    ({ Config.excfg with reg := Config.excfg.reg ++ [⟨0x53, 0, .external 0⟩] } : Config).wf = false ∧
    ({ Config.excfg with reg := [⟨0x53, 2, .servoRaw⟩] } : Config).wf = false ∧
    ({ Config.excfg with reg := [⟨0x53, 3, .servoRaw⟩, ⟨0x73, 5, .servoHex⟩] } : Config).wf = false ∧
    ({ Config.excfg with pm := [⟨0x50, 2, 1500⟩, ⟨0x50, 1, 1500⟩] } : Config).wf = false := by decide

theorem test_config_wf_refuses_sizes :
    ({ Config.excfg with tsw := 15 } : Config).wf = false ∧
    ({ Config.excfg with pm := [] } : Config).wf = false ∧
    ({ Config.excfg with pm := [⟨0x50, 0, 1500⟩] } : Config).wf = false ∧
    ({ Config.excfg with pm := [⟨0x50, 225, 1500⟩] } : Config).wf = false ∧
    ({ Config.excfg with widthMax := 65536 } : Config).wf = false ∧
    ({ Config.excfg with indexOffset := 256 } : Config).wf = false ∧
    ({ Config.excfg with nservo := 0 } : Config).wf = false ∧
    ({ Config.excfg with nservo := 225 } : Config).wf = false ∧
    ({ Config.excfg with payloadTimeout := some 0 } : Config).wf = false ∧
    ({ Config.excfg with payloadTimeout := some (2 ^ 32) } : Config).wf = false ∧
    ({ Config.excfg with rxqDepth := some 0 } : Config).wf = false := by decide

/-! ## Decoding: words written out from the spec's layouts -/

/-- 30_encoding R72, R73, R83. -/
theorem test_decode_frames :
    decode Config.excfg (.frame [0b01010011, 0x20, 0b00101101]) = .ok (.servoRaw 0x20 45) ∧
    decode Config.excfg (.frame [0b01110011, 0x21, 0x30, 0x35, 0x64, 0x63]) =
      .ok (.servoHex 0x21 0x30 0x35 0x64 0x63) ∧
    decode Config.excfg (.frame [0x0A]) = .ok (.unregistered 0x0A) := by decide

/-- 30_encoding R78, R79, R80: vectors LN-2, LN-3, LN-6, LN-5 without their EOL. -/
theorem test_decode_lines :
    decode Config.excfg (.line [0x43, 0x49, 0x20, 0x30, 0x37, 0x44, 0x30]) = .ok (.changeReport 1 0 2000) ∧
    decode Config.excfg (.line [0x52, 0x50, 0x21, 0x30, 0x35, 0x44, 0x43]) = .ok (.fullReport 0 1) ∧
    decode Config.excfg (.line [0x53, 0x21, 0x0A]) = .ok (.ackServoRaw 0x21 0x0A) ∧
    decode Config.excfg (.line [0x73, 0x21, 0x30, 0x35, 0x64, 0x63]) =
      .ok (.ackServoHex 0x21 0x30 0x35 0x64 0x63) := by decide

/-- 10_state R39: one-bit strobes, and `rx_valid` above `rx_data[7:0]`. -/
theorem test_decode_ports :
    decode Config.excfg (.signal (.port .tmrTick 0b1)) = .ok .timerTick ∧
    decode Config.excfg (.signal (.port (.edgeRise 0 1) 0b1)) = .ok (.rise 0 1) ∧
    decode Config.excfg (.signal (.port (.edgeFall 1 0) 0b1)) = .ok (.fall 1 0) ∧
    decode Config.excfg (.signal (.port .rx 0b101010011)) = .ok (.rxByte 0x53) ∧
    decode Config.excfg (.signal (.port .reqDispatch 0b1)) = .ok .opDispatch ∧
    decode Config.excfg (.signal (.port (.reqUpdate 1) 0b1)) = .ok (.opUpdate 1) ∧
    decode Config.excfg (.signal (.port (.reqReport 1) 0b1)) = .ok (.opReport 1) ∧
    decode Config.excfg (.signal (.port .rst 0b1)) = .ok .reset := by decide

/-- The micro-steps, which have no encoding and no port. -/
theorem test_decode_micro_steps :
    [MicroStep.payloadByte, .frameTimeout, .dispatchExec, .updateStep].map
      (fun m => (decode Config.excfg (.signal (.internal m))).toOption) =
    [some .payloadByte, some .frameTimeout, some .dispatchExec, some .updateStep] := by decide

/-- 30_encoding R86, R144: a registered opcode waits for its payload; a frame is not two frames; an entry of another
module is no row. -/
theorem test_decode_refuses_frames :
    decode Config.excfg (.frame []) = .error .emptyFrame ∧
    decode Config.excfg (.frame [0x53, 0x20]) = .error .starvedFrame ∧
    decode Config.excfg (.frame [0x53, 0x20, 0x2D, 0x53]) = .error .trailingBytes ∧
    decode withExternal (.frame [0x3F]) = .error (.externalModule 7) ∧
    decode ({ Config.excfg with reg := [⟨0x53, 1, .servoRaw⟩] }) (.frame [0x53, 0]) = .error .badEntry := by decide

/-- 43_report_encoder R170, R181: unknown letter, index outside the module, lower-case digit; unknown shapes; strobes. -/
theorem test_decode_refuses_lines_and_strobes :
    decode Config.excfg (.line [0x43, 0x51, 0x20, 0x30, 0x32, 0x30, 0x38]) = .error .badReport ∧
    decode Config.excfg (.line [0x43, 0x50, 0x22, 0x30, 0x32, 0x30, 0x38]) = .error .badReport ∧
    decode Config.excfg (.line [0x43, 0x50, 0x20, 0x30, 0x35, 0x64, 0x63]) = .error .badReport ∧
    decode Config.excfg (.line [0x44, 0x50, 0x20, 0x30, 0x32, 0x30, 0x38]) = .error .unknownLine ∧
    decode Config.excfg (.signal (.port .tmrTick 0)) = .error .strobeLow ∧
    decode Config.excfg (.signal (.port .rst 2)) = .error .tooWide ∧
    decode Config.excfg (.signal (.port (.edgeRise 0 2) 1)) = .error .noSuchPort := by decide

/-- The table's words, first byte in the most significant place (`bit_order` of spec/opcode_table.json). -/
theorem test_table_words :
    decodeTableWord 24 0x53202D = some (.servoRaw 0x20 45) ∧
    decodeTableWord 48 0x732130354443 = some (.servoHex 0x21 0x30 0x35 0x44 0x43) ∧
    decodeTableWord 8 0x58 = some (.unregistered 0x58) ∧
    decodeTableWord 56 0x43502030323038 = some (.changeReport 0 0 520) ∧
    decodeTableWord 56 0x52492030354443 = some (.fullReport 1 0) ∧
    decodeTableWord 16 0b101010011 = some (.rxByte 0x53) := by decide

/-- Vector S3 through the host's entry: the frame `53 20 2D` runs as the first operation after reset. -/
theorem test_table_word_runs :
    check (step (State.reset.withFetchWord 24 0x53202D)) (fun t =>
      t.servoOut == [⟨0, 45, false⟩] && t.tx == [0x53, 0x20, 0x2D, 0x0D, 0x0A] && t.mstate == .idle) = true := by
  decide

/-- LN-1 and SV-7 through the host's entry. -/
theorem test_table_words_run :
    check (step (State.reset.withFetchWord 56 0x43502030323038))
      (fun t => t.tx == [0x43, 0x50, 0x20, 0x30, 0x32, 0x30, 0x38, 0x0D, 0x0A]) = true ∧
    check (step (State.reset.withFetchWord 48 0x732130354443)) (fun t => t.servoOut == [⟨1, 1500, true⟩]) = true ∧
    check (step (State.reset.withFetchWord 8 0x58)) (fun t => t.rxq == [] && t.tx == []) = true := by decide

/-! ## Timer and edges -/

/-- Vector ET-2. -/
theorem test_timerTick_wraps :
    check (exec .timerTick { State.reset with timer := 0xFFFFFFFF }) (·.timer == 0) = true := by decide

/-- Vector ET-4: the waiting sample is lost, `falling` stays. -/
theorem test_rise_ET4 :
    check (exec (.rise 0 0) (st 3000 0 0 ⟨1000, 1520, true, 1500⟩))
      (·.chan? 0 0 == some ⟨3000, 1520, false, 1500⟩) = true := by decide

/-- Vector ET-8: edges are captured while the main context is stalled. -/
theorem test_rise_ET8 :
    check (exec (.rise 0 1) (collecting 0 0 0 42 []))
      (fun t => t.chan? 0 1 == some ⟨42, 0, false, 1500⟩ && t.chan? 0 0 == some ⟨0, 0, false, 1500⟩) = true := by
  decide

/-- Vector ET-6. -/
theorem test_fall_ET6 :
    check (exec (.fall 0 0) (st 1600 0 0 ⟨1000, 1520, true, 1500⟩))
      (·.chan? 0 0 == some ⟨1000, 1600, true, 1500⟩) = true := by decide

/-- Vector ET-7: a fall with no rise. -/
theorem test_fall_ET7 :
    check (exec (.fall 1 0) { State.reset with timer := 700 })
      (·.chan? 1 0 == some ⟨0, 700, true, 1500⟩) = true := by decide

/-! ## Poll and update -/

/-- A poll result and the channel after it. -/
def pollGives (x : Channel) (r : Option Half) (y : Channel) : Bool :=
  check (exec (.poll 0 0) (st 0 0 0 x)) (fun t => t.result == .poll r && t.chan? 0 0 == some y)

/-- Vectors PC-1, PC-3, PC-4, PC-5. -/
theorem test_poll_boundaries :
    pollGives ⟨0, 0, false, 1500⟩ none ⟨0, 0, false, 1500⟩ = true ∧
    pollGives ⟨0xFFFFFF00, 0x108, true, 1500⟩ (some 520) ⟨0xFFFFFF00, 0x108, false, 520⟩ = true ∧
    pollGives ⟨1000, 66535, true, 1500⟩ (some 65535) ⟨1000, 66535, false, 65535⟩ = true ∧
    pollGives ⟨1000, 66536, true, 1500⟩ (some 1500) ⟨1000, 66536, false, 1500⟩ = true := by decide

/-- Vectors PC-6, PC-7, PC-9. -/
theorem test_poll_held_and_zero :
    pollGives ⟨0, 5000000, true, 520⟩ (some 520) ⟨0, 5000000, false, 520⟩ = true ∧
    pollGives ⟨777, 777, true, 1500⟩ (some 0) ⟨777, 777, false, 0⟩ = true ∧
    pollGives ⟨1520, 1519, true, 1500⟩ (some 1500) ⟨1520, 1519, false, 1500⟩ = true := by decide

/-- Vectors UP-1 and UP-4. -/
theorem test_updateChannel_UP1_UP4 :
    check (exec (.updateChannel 0 0) (st 0 0 0 ⟨1000, 1520, true, 1500⟩)) (fun t =>
      t.tx == [0x43, 0x50, 0x20, 0x30, 0x32, 0x30, 0x38, 0x0D, 0x0A] &&
      t.chan? 0 0 == some ⟨1000, 1520, false, 520⟩) = true ∧
    check (exec (.updateChannel 0 0) (st 0 0 0 ⟨1000, 66536, true, 1500⟩))
      (fun t => t.tx == [] && t.chan? 0 0 == some ⟨1000, 66536, false, 1500⟩) = true := by decide

/-- Vector UP-3: a sample of the held width. -/
theorem test_updateChannel_UP3 :
    check (exec (.updateChannel 0 1) (st 0 0 1 ⟨100, 1600, true, 1500⟩))
      (fun t => t.tx == [] && t.chan? 0 1 == some ⟨100, 1600, false, 1500⟩) = true := by decide

/-- Vectors UP-5 (its first step) and UP-6. -/
theorem test_opUpdate :
    check (exec (.opUpdate 0) State.reset) (·.mstate == .inUpdate 0 0) = true ∧
    check (exec (.opUpdate 0) (collecting 0 0 0 0 [])) (· == collecting 0 0 0 0 []) = true := by decide

/-- Vector UP-5, second channel: the width 1000 is reported, and the module is done. -/
theorem test_updateStep_UP5 :
    check (exec .updateStep { st 0 0 1 ⟨20, 1020, true, 1500⟩ with mstate := .inUpdate 0 1 }) (fun t =>
      t.tx == [0x43, 0x50, 0x21, 0x30, 0x33, 0x45, 0x38, 0x0D, 0x0A] && t.mstate == .idle) = true := by decide

/-- Vector UP-9: a channel already visited keeps its new sample. -/
theorem test_updateStep_UP9 :
    check (exec .updateStep { st 0 0 0 ⟨5, 305, true, 520⟩ with mstate := .inUpdate 0 1 })
      (fun t => t.chan? 0 0 == some ⟨5, 305, true, 520⟩ && t.tx == []) = true := by decide

/-- Vector UP-7. -/
theorem test_opReport_UP7 :
    check (exec (.opReport 1) (st 0 1 0 ⟨1000, 66535, false, 65535⟩))
      (·.tx == [0x52, 0x49, 0x20, 0x46, 0x46, 0x46, 0x46, 0x0D, 0x0A]) = true := by decide

/-- Vector UP-8: a waiting sample is not shown and stays. -/
theorem test_opReport_UP8 :
    check (exec (.opReport 0) (st 0 0 0 ⟨1000, 1520, true, 1500⟩)) (fun t =>
      t.tx == [0x52, 0x50, 0x20, 0x30, 0x35, 0x44, 0x43, 0x0D, 0x0A, 0x52, 0x50, 0x21, 0x30, 0x35, 0x44, 0x43, 0x0D,
        0x0A] && t.chan? 0 0 == some ⟨1000, 1520, true, 1500⟩) = true := by decide

/-! ## Dispatcher -/

/-- Vector CD-17. -/
theorem test_rxByte_CD17 : check (exec (.rxByte 0x20) (received [0x53])) (·.rxq == [0x53, 0x20]) = true := by decide

/-- Vectors CD-2 and CD-3. -/
theorem test_opDispatch_CD2_CD3 :
    check (exec .opDispatch (received [0x0A])) (fun t => t == received []) = true ∧
    check (exec .opDispatch { received [0x53, 0x20, 0x2D] with timer := 77 }) (fun t =>
      t.rxq == [0x20, 0x2D] && t.cur == 0 && t.cnt == 0 && t.frameT0 == 77 && t.dstate == .awaitingPayload &&
      t.mstate == .inDispatch) = true := by decide

/-- Vectors CD-14 and CD-16. -/
theorem test_opDispatch_CD14_CD16 :
    check (exec .opDispatch { State.resetOf withExternal with rxq := [0x3F] })
      (fun t => t.dstate == .dispatching && t.cnt == 0 && t.cur == 2) = true ∧
    check (exec .opDispatch { received [0x53] with mstate := .inUpdate 0 1 }) (fun t => t.rxq == [0x53]) = true := by
  decide

/-- Vector S4 as the table's row UNREGISTERED; a registered byte is not discarded by it. -/
theorem test_unregistered_S4 :
    check (exec (.unregistered 0x58) (received [0x58, 0x53])) (fun t => t == received [0x53]) = true ∧
    check (exec (.unregistered 0x53) (received [0x53])) (fun t => t == received [0x53]) = true := by decide

/-- Vectors CD-4 and CD-5. -/
theorem test_payloadByte_CD4_CD5 :
    check (exec .payloadByte (collecting 0 0 0 0 [0x20, 0x2D])) (fun t =>
      t.rxq == [0x2D] && t.buf.take 1 == [0x20] && t.cnt == 1 && t.dstate == .awaitingPayload) = true ∧
    check (exec .payloadByte (collecting 0 1 0 0 [0x2D])) (fun t =>
      t.rxq == [] && t.buf[1]? == some 0x2D && t.cnt == 2 && t.dstate == .dispatching) = true := by decide

/-- Vectors CD-10, CD-12 (taken), CD-8, CD-11 (not enabled). -/
theorem test_frameTimeout_CD8_CD10_CD11_CD12 :
    check (exec .frameTimeout (collecting 1 3 5000 6000 [])) (fun t =>
      t.dstate == .awaitingOpcode && t.mstate == .idle && t.tx == []) = true ∧
    check (exec .frameTimeout (collecting 1 3 0xFFFFFF00 0x2E8 [])) (·.mstate == .idle) = true ∧
    check (exec .frameTimeout (collecting 1 3 5000 5999 [])) (·.mstate == .inDispatch) = true ∧
    check (exec .frameTimeout (collecting 1 3 5000 9000 [0x30])) (·.mstate == .inDispatch) = true := by decide

/-- Vector CD-13: with `PAYLOAD_TIMEOUT = INF` the timeout is never enabled. -/
theorem test_frameTimeout_CD13 :
    check (exec .frameTimeout
      { collecting 1 3 5000 9000 [] with cfg := { Config.excfg with payloadTimeout := none } })
      (·.mstate == .inDispatch) = true := by decide

/-- Vector CD-6. -/
theorem test_dispatchExec_CD6 :
    check (exec .dispatchExec (routed 0 [0x20, 0x2D])) (fun t =>
      t.servoOut == [⟨0, 45, false⟩] && t.tx == [0x53, 0x20, 0x2D, 0x0D, 0x0A] && t.dstate == .awaitingOpcode &&
      t.mstate == .idle) = true := by decide

/-- Vector CD-7: payload bytes equal to an opcode are payload, and no hex digits. -/
theorem test_dispatchExec_CD7 :
    check (exec .dispatchExec (routed 1 [0x21, 0x53, 0x53, 0x53, 0x53]))
      (fun t => t.servoOut == [] && t.tx == [] && t.dstate == .awaitingOpcode) = true := by decide

/-! ## Servo commands and lines -/

/-- Vectors SV-2, SV-3, SV-5. -/
theorem test_servoRaw :
    check (exec (.servoRaw 0x21 0xFF) State.reset) (fun t =>
      t.servoOut == [⟨1, 255, false⟩] && t.tx == [0x53, 0x21, 0xFF, 0x0D, 0x0A]) = true ∧
    check (exec (.servoRaw 0x22 0x2D) State.reset) (· == State.reset) = true ∧
    check (exec (.servoRaw 0x1F 0x2D) State.reset) (· == State.reset) = true := by decide

/-- Vectors SV-8, SV-10, SV-11. -/
theorem test_servoHex :
    check (exec (.servoHex 0x20 0x30 0x35 0x64 0x63) State.reset) (fun t =>
      t.servoOut == [⟨0, 1500, true⟩] && t.tx == [0x73, 0x20, 0x30, 0x35, 0x64, 0x63, 0x0D, 0x0A]) = true ∧
    check (exec (.servoHex 0x20 0x30 0x35 0x44 0x47) State.reset) (· == State.reset) = true ∧
    check (exec (.servoHex 0x22 0x30 0x35 0x44 0x43) State.reset) (· == State.reset) = true := by decide

/-- Vectors LN-2 and LN-7. -/
theorem test_changeReport :
    check (exec (.changeReport 1 0 2000) State.reset)
      (·.tx == [0x43, 0x49, 0x20, 0x30, 0x37, 0x44, 0x30, 0x0D, 0x0A]) = true ∧
    check (exec (.changeReport 0 0 520) (State.resetOf { Config.excfg with eol := [0x0A] }))
      (·.tx == [0x43, 0x50, 0x20, 0x30, 0x32, 0x30, 0x38, 0x0A]) = true := by decide

/-- Vectors LN-3 and LN-8. -/
theorem test_fullReport :
    check (exec (.fullReport 0 1) State.reset)
      (·.tx == [0x52, 0x50, 0x21, 0x30, 0x35, 0x44, 0x43, 0x0D, 0x0A]) = true ∧
    check (exec (.fullReport 0 1) (State.resetOf { Config.excfg with indexOffset := 0 }))
      (·.tx == [0x52, 0x50, 0x01, 0x30, 0x35, 0x44, 0x43, 0x0D, 0x0A]) = true := by decide

/-- Vectors LN-6 and LN-5. -/
theorem test_acknowledgments :
    check (exec (.ackServoRaw 0x21 0x0A) State.reset) (·.tx == [0x53, 0x21, 0x0A, 0x0D, 0x0A]) = true ∧
    check (exec (.ackServoHex 0x21 0x30 0x35 0x64 0x63) State.reset)
      (·.tx == [0x73, 0x21, 0x30, 0x35, 0x64, 0x63, 0x0D, 0x0A]) = true := by decide

/-- The example of 43_report_encoder R177. -/
theorem test_txLine :
    check (exec (.txLine [0x53, 0x20, 0x2D]) State.reset) (·.tx == [0x53, 0x20, 0x2D, 0x0D, 0x0A]) = true := by decide

/-! ## Codec -/

/-- The example of 43_report_encoder R170; vectors HX-3, HX-10, HX-13, HX-18. -/
theorem test_hex_encoders :
    check (exec (.hexdigit 13) State.reset) (·.result == .byte 0x44) = true ∧
    check (exec (.hex2 0xA0) State.reset) (·.result == .bytes [0x41, 0x30]) = true ∧
    check (exec (.hex4 0x1234) State.reset) (·.result == .bytes [0x31, 0x32, 0x33, 0x34]) = true ∧
    check (exec (.hex4 32768) State.reset) (·.result == .bytes [0x38, 0x30, 0x30, 0x30]) = true ∧
    check (exec (.hex8 1000000) State.reset)
      (·.result == .bytes [0x30, 0x30, 0x30, 0x46, 0x34, 0x32, 0x34, 0x30]) = true := by decide

/-- Vector HX-27: the edges of the three ranges. -/
theorem test_hexval_HX27 :
    [0x2F, 0x30, 0x39, 0x3A, 0x40, 0x41, 0x46, 0x47, 0x60, 0x61, 0x66, 0x67].map hexval =
      [none, some 0, some 9, none, none, some 10, some 15, none, none, some 10, some 15, none] ∧
    check (exec (.hexval 0x64) State.reset) (·.result == .nibble (some 13)) = true := by decide

/-- Vectors HX-21, HX-24, and the last of HX-23. -/
theorem test_hexdec4 :
    check (exec (.hexdec4 0x30 0x35 0x64 0x63) State.reset) (·.result == .half (some 1500)) = true ∧
    check (exec (.hexdec4 0x30 0x35 0x44 0x47) State.reset) (·.result == .half none) = true ∧
    check (exec (.hexdec4 0x41 0x42 0x43 0x44) State.reset) (·.result == .half (some 43981)) = true := by decide

/-! ## Reset, step, cycles -/

/-- Vector RS-1. -/
theorem test_reset_RS1 :
    check (exec .reset { collecting 1 3 0 99999 [0x30] with ch := (st 0 0 0 ⟨1000, 1520, true, 520⟩).ch }) (fun t =>
      t.dstate == .awaitingOpcode && t.mstate == .idle && t.cnt == 0 && t.timer == 0 && t.rxq == [] && t.tx == [] &&
      t.servoOut == [] && t.ch == State.reset.ch) = true := by decide

/-- 70_reset_and_hazards R272: reset is quiescent; a step with nothing pending changes nothing. -/
theorem test_step_waits : check (step State.reset) (· == State.reset) = true := by decide

/-- A step takes the oldest pending strobe; a low strobe is no event. -/
theorem test_step_takes_oldest :
    check (step { State.reset with pending := [.port .rx 0x153, .port .tmrTick 1] })
      (fun t => t.rxq == [0x53] && t.timer == 0 && t.pending == [.port .tmrTick 1]) = true ∧
    check (step { State.reset with pending := [.port .rst 0] }) (· == State.reset) = true := by decide

/-- The model's stops: refusals of the step and faults of the operations (logs 12 to 14). -/
theorem test_stops :
    refuses (step { State.reset with pending := [.port (.reqUpdate 2) 1] }) (.illFormedSignal .noSuchPort) = true ∧
    refuses (step { State.reset with cfg := { Config.excfg with tsw := 8 } }) .illFormedConfig = true ∧
    faults (exec (.rise 0 2) State.reset) .noSuchChannel = true ∧
    faults (exec (.opReport 2) State.reset) .noSuchModule = true ∧
    faults (exec .dispatchExec { routed 0 [0x20, 0x2D] with cur := 2 }) .curOutOfRange = true := by decide

/-- 60_exceptions R229: both edges of a channel, a byte and a tick in one cycle, after a report request. -/
theorem test_clock_serialises :
    State.serialise State.reset ⟨false, true, false, [1], [0], [(0, 1)], [(0, 1), (0, 0)], some 0x41, true⟩ =
      [.port (.reqUpdate 1) 1, .port (.edgeRise 0 1) 1, .port (.edgeFall 0 0) 1, .port (.edgeFall 0 1) 1,
        .port .rx 0x141, .port .tmrTick 1] := by decide

/-! ## Witnesses: concrete states and operands that meet all hypotheses of an obligation together, clause by clause -/

/-- A Bool test that implies `State.Inv` for states of EXCFG with nothing emitted. -/
def invCheck (s : State) : Bool :=
  decide (s.cfg = Config.excfg) && decide (s.ch.map (·.length) = s.cfg.pm.map (·.nch)) &&
  decide (s.timer < 2 ^ s.cfg.tsw) && decide (s.frameT0 < 2 ^ s.cfg.tsw) &&
  s.ch.all (fun row => row.all fun x => decide (x.rising < 2 ^ s.cfg.tsw) && decide (x.falling < 2 ^ s.cfg.tsw)) &&
  decide (s.mstate = .inDispatch ↔ s.dstate ≠ .awaitingOpcode) &&
  (match s.mstate with
    | .inUpdate k c => s.cfg.hasChannel k c
    | _ => true) &&
  (match s.cfg.reg[s.cur]? with
    | some e => decide ((s.dstate = .awaitingPayload → s.cnt < e.len) ∧ (s.dstate = .dispatching → s.cnt = e.len))
    | none => false) &&
  decide (s.cnt ≤ s.cfg.maxLen) && decide (s.buf.length = s.cfg.maxLen) && decide (s.tx = []) &&
  decide (s.servoOut = [])

theorem inv_of_check {s : State} (h : invCheck s = true) : s.Inv := by
  simp only [invCheck, Bool.and_eq_true, decide_eq_true_eq, List.all_eq_true] at h
  obtain ⟨⟨⟨⟨⟨⟨⟨⟨⟨⟨⟨hcfg, hsh⟩, ht⟩, hf⟩, hch⟩, hm⟩, hu⟩, hr⟩, hcnt⟩, hbuf⟩, htx⟩, hso⟩ := h
  constructor
  · rw [hcfg]; decide
  · refine ⟨by simpa using congrArg List.length hsh, fun k m row hpm hrow => ?_⟩
    have := congrArg (·[k]?) hsh
    simpa [hpm, hrow] using this
  · refine ⟨ht, hf, fun k c x hx => ?_⟩
    obtain ⟨row, h1, h2⟩ := State.chan?_mem hx
    exact hch row h1 x h2
  · exact hm
  · intro k c he
    simpa [he] using hu
  · cases he : s.cfg.reg[s.cur]? with
    | none => simp [he] at hr
    | some e =>
      simp only [he, decide_eq_true_eq] at hr
      exact ⟨(List.getElem?_eq_some_iff.1 he).1, hcnt, hbuf, fun e' h' => by rw [he] at h'; cases h'; exact hr⟩
  · intro k c m x _ _
    right
    rw [hcfg]
    exact Nat.le_of_lt_succ x.lastWidth.isLt
  · exact ⟨[], htx⟩
  · intro d hd
    rw [hcfg] at hd
    cases hd
  · intro w hw
    rw [hso] at hw
    cases hw

theorem witness_TimerTick : (st 0xFFFFFFFF 0 0 ⟨0, 0, false, 0⟩).timer = 2 ^ (State.reset).cfg.tsw - 1 := by decide

theorem witness_Rise_Fall :
    State.reset.chan? 0 1 = some ⟨0, 0, false, 1500⟩ ∧ State.reset.cfg.hasChannel 0 1 = true ∧
    State.reset.chan? 1 0 = some ⟨0, 0, false, 1500⟩ ∧ State.reset.cfg.hasChannel 1 0 = true := by decide

theorem witness_EdgesOfDifferentChannelsCommute :
    ((0, 0) : Nat × Nat) ≠ (0, 1) ∧ (State.reset.chan? 0 0).isSome = true ∧ (State.reset.chan? 0 1).isSome = true := by
  decide

theorem witness_AddressOutsideTheIndexSpacesStops :
    State.reset.chan? 0 2 = none ∧ State.reset.chan? 2 0 = none ∧ State.reset.cfg.pm.length ≤ 2 ∧
    State.reset.cfg.pm[0]? = some ⟨0x50, 2, 1500⟩ ∧ 2 ≤ (⟨0x50, 2, 1500⟩ : PulseModule).nch := by decide

/-- No sample; the largest plausible difference; the smallest implausible one. -/
theorem witness_Poll :
    State.reset.chan? 0 0 = some ⟨0, 0, false, 1500⟩ ∧
    (st 0 0 0 ⟨1000, 66535, true, 1500⟩).chan? 0 0 = some ⟨1000, 66535, true, 1500⟩ ∧
    (1000 < 2 ^ Config.excfg.tsw ∧ 66535 < 2 ^ Config.excfg.tsw) ∧
    stampDiff Config.excfg.tsw 66535 1000 = Config.excfg.widthMax ∧
    (st 0 0 0 ⟨1000, 66536, true, 1500⟩).chan? 0 0 = some ⟨1000, 66536, true, 1500⟩ ∧
    66536 < 2 ^ Config.excfg.tsw ∧
    Config.excfg.widthMax < stampDiff Config.excfg.tsw 66536 1000 := by decide

theorem witness_PlausibleWidth_and_SecondPoll :
    ∃ t u y, Config.excfg.wf = true ∧ exec (.poll 0 0) (st 0 0 0 ⟨1000, 66535, true, 1500⟩) = .next t ∧
      t.chan? 0 0 = some y ∧ stampDiff Config.excfg.tsw 66535 1000 ≤ Config.excfg.widthMax ∧
      exec (.rise 0 0) t = .next u :=
  ⟨_, _, _, by decide, rfl, rfl, by decide, rfl⟩

/-- A run with a returned sample, a lost one and one waiting at the start. -/
theorem witness_SamplesReturned :
    (st 5 0 0 ⟨1, 2, true, 0⟩).ShapeOk ∧ (st 5 0 0 ⟨1, 2, true, 0⟩).chan? 0 0 = some ⟨1, 2, true, 0⟩ ∧
    (∀ i ∈ [Instr.poll 0 0, .rise 0 0, .fall 0 0, .rise 0 0, .timerTick, .fall 0 0, .poll 0 0],
      sampleOp i = true ∧ i.wf Config.excfg = true) :=
  ⟨(inv_of_check (by decide)).shape, by decide, by decide⟩

theorem witness_PulseWidth :
    (st 0xFFFFFF00 1 0 ⟨0, 0, false, 7⟩).chan? 1 0 = some ⟨0, 0, false, 7⟩ ∧
    (st 0xFFFFFF00 1 0 ⟨0, 0, false, 7⟩).timer < 2 ^ Config.excfg.tsw := by decide

/-- A changed width; no sample; a sample of the held width. -/
theorem witness_UpdateChannel :
    (pollGives ⟨1000, 1520, true, 1500⟩ (some 520) ⟨1000, 1520, false, 520⟩ = true ∧ (520 : Half) ≠ 1500) ∧
    pollGives ⟨0, 0, false, 1500⟩ none ⟨0, 0, false, 1500⟩ = true ∧
    pollGives ⟨100, 1600, true, 1500⟩ (some 1500) ⟨100, 1600, false, 1500⟩ = true ∧
    State.reset.cfg.pm[0]? = some ⟨0x50, 2, 1500⟩ ∧ 0 < (⟨0x50, 2, 1500⟩ : PulseModule).nch := by decide

/-- The first and the last channel of a module; a step that changes something. -/
theorem witness_UpdateStep :
    (1 < State.reset.cfg.pm.length ∧ State.reset.mstate = .idle) ∧
    (State.reset.chan? 0 0).isSome = true ∧ (State.reset.chan? 0 1).isSome = true ∧
    State.reset.cfg.pm[0]? = some ⟨0x50, 2, 1500⟩ ∧
    check (exec .updateStep { State.reset with mstate := .inUpdate 0 0 }) (· != { State.reset with mstate := .inUpdate 0 0 })
      = true := by decide

theorem witness_UpdateVisits :
    (st 9 0 1 ⟨20, 1020, true, 1500⟩).Inv ∧ (st 9 0 1 ⟨20, 1020, true, 1500⟩).mstate = .idle ∧
    Config.excfg.pm[0]? = some ⟨0x50, 2, 1500⟩ := ⟨inv_of_check (by decide), by decide, by decide⟩

theorem witness_OpReport :
    State.reset.cfg.pm[0]? = some ⟨0x50, 2, 1500⟩ ∧ State.reset.mstate = .idle ∧
    (∀ c, c < 2 → (State.reset.chan? 0 c).map (·.lastWidth) = some 1500) ∧
    (collecting 0 0 0 0 []).mstate ≠ .idle := by decide

/-- Two states that differ in stamps, flag, timer and queue. -/
theorem witness_FullReportsReveal :
    (st 8 0 0 ⟨1, 2, true, 1500⟩).cfg = State.reset.cfg ∧ (st 8 0 0 ⟨1, 2, true, 1500⟩).mstate = State.reset.mstate ∧
    (st 8 0 0 ⟨1, 2, true, 1500⟩).tx = State.reset.tx ∧
    (∀ c, ((st 8 0 0 ⟨1, 2, true, 1500⟩).chan? 0 c).map (·.lastWidth) = (State.reset.chan? 0 c).map (·.lastWidth)) ∧
    ∃ t, exec (.opReport 0) (st 8 0 0 ⟨1, 2, true, 1500⟩) = .next t :=
  ⟨rfl, rfl, rfl, fun c => match c with
    | 0 => rfl
    | 1 => rfl
    | _ + 2 => rfl, _, rfl⟩

/-- No limit; a queue with one place left. -/
theorem witness_RxByte :
    State.reset.cfg.rxqDepth = none ∧
    check (exec (.rxByte 1) (State.resetOf { Config.excfg with rxqDepth := some 1 }))
      (· != State.resetOf { Config.excfg with rxqDepth := some 1 }) = true := by decide

/-- Busy; empty queue; unregistered byte; second entry of REG. -/
theorem witness_OpDispatch :
    (collecting 0 0 0 0 []).mstate ≠ .idle ∧ State.reset.mstate = .idle ∧ State.reset.rxq = [] ∧
    (∀ e ∈ (received [0x58]).cfg.reg, e.opcode ≠ 0x58) ∧
    (received [0x73]).cfg.reg[1]? = some ⟨0x73, 5, .servoHex⟩ ∧
    (received [0x73]).cfg.reg.take 1 = [⟨0x53, 2, .servoRaw⟩] := by decide

theorem witness_Unregistered_JunkRun :
    (received ([0x58, 0x0A] ++ [0x53])).mstate = .idle ∧ (received ([0x58, 0x0A] ++ [0x53])).rxq = [0x58, 0x0A] ++ [0x53] ∧
    ∀ b ∈ [(0x58 : Byte), 0x0A], ∀ e ∈ (received ([0x58, 0x0A] ++ [0x53])).cfg.reg, e.opcode ≠ b := by decide

/-- The last payload byte, at the last place of `buf`; a byte that is taken. -/
theorem witness_PayloadByte :
    (collecting 1 4 0 0 [0x44]).dstate = .awaitingPayload ∧ (collecting 1 4 0 0 [0x44]).rxq = [0x44] ∧
    (collecting 1 4 0 0 [0x44]).cfg.reg[(collecting 1 4 0 0 [0x44]).cur]? = some ⟨0x73, 5, .servoHex⟩ ∧
    (collecting 1 4 0 0 [0x44]).cnt < (collecting 1 4 0 0 [0x44]).buf.length ∧
    check (exec .payloadByte (collecting 1 4 0 0 [0x44])) (· != collecting 1 4 0 0 [0x44]) = true := by decide

/-- The deadline passes at exactly `PAYLOAD_TIMEOUT` ticks. -/
theorem witness_FrameTimeout :
    (collecting 1 3 5000 6000 []).timer < 2 ^ Config.excfg.tsw ∧
    (collecting 1 3 5000 6000 []).frameT0 < 2 ^ Config.excfg.tsw ∧
    (collecting 1 3 5000 6000 []).cfg.payloadTimeout = some 1000 ∧ stampDiff Config.excfg.tsw 6000 5000 = 1000 ∧
    check (exec .frameTimeout (collecting 1 3 5000 6000 [])) (· != collecting 1 3 5000 6000 []) = true := by decide

/-- A limit of two ticks, after one tick and after two. -/
theorem witness_TimeoutIsCounted :
    let s : State := { State.resetOf { Config.excfg with payloadTimeout := some 2 } with rxq := [0x53] }
    s.mstate = .idle ∧ lookup s.cfg 0x53 = some (0, ⟨0x53, 2, .servoRaw⟩) ∧ s.timer < 2 ^ s.cfg.tsw ∧
    check (execAll [.opDispatch, .timerTick] s) (·.enabledMicro == none) = true ∧
    check (execAll [.opDispatch, .timerTick, .timerTick] s) (·.enabledMicro == some .frameTimeout) = true := by decide

/-- The three kinds of handler; an operation that happens. -/
theorem witness_DispatchExec :
    (routed 0 [0x20, 0x2D]).cfg.reg[0]? = some ⟨0x53, 2, .servoRaw⟩ ∧
    (routed 0 [0x20, 0x2D]).buf = 0x20 :: 0x2D :: [0, 0, 0] ∧
    (routed 1 [0x21, 0x30, 0x35, 0x44, 0x43]).cfg.reg[1]? = some ⟨Config.excfg.opServoHex, 5, .servoHex⟩ ∧
    (routed 1 [0x21, 0x30, 0x35, 0x44, 0x43]).buf = 0x21 :: 0x30 :: 0x35 :: 0x44 :: 0x43 :: [] ∧
    withExternal.reg[2]? = some ⟨0x3F, 0, .external 7⟩ ∧
    check (exec .dispatchExec (routed 0 [0x20, 0x2D])) (· != routed 0 [0x20, 0x2D]) = true := by decide

/-- A whole frame and the start of another in `rxq`. -/
theorem witness_frames :
    (received [0x53, 0x20, 0x2D, 0x53]).Inv ∧ (received [0x53, 0x20, 0x2D, 0x53]).mstate = .idle ∧
    lookup Config.excfg 0x53 = some (0, ⟨0x53, 2, .servoRaw⟩) ∧
    (received [0x53, 0x20, 0x2D, 0x53]).rxq = 0x53 :: ([0x20, 0x2D] ++ [0x53]) ∧
    (Instr.servoRaw 0x20 0x2D).wf Config.excfg = true ∧
    encode Config.excfg 0 (.servoRaw 0x20 0x2D) = some (.frame [0x53, 0x20, 0x2D]) :=
  ⟨inv_of_check (by decide), by decide, by decide, by decide, by decide, by decide⟩

/-- A transition of `dstate` by each of its five operations. -/
theorem witness_DispatcherTransitions :
    check (exec .opDispatch (received [0x53])) (·.dstate != .awaitingOpcode) = true ∧
    check (exec .payloadByte (collecting 0 1 0 0 [0x2D])) (·.dstate != .awaitingPayload) = true ∧
    check (exec .frameTimeout (collecting 1 3 5000 6000 [])) (·.dstate != .awaitingPayload) = true ∧
    check (exec .dispatchExec (routed 0 [0x20, 0x2D])) (·.dstate != .dispatching) = true ∧
    check (exec .reset (collecting 1 3 5000 6000 [])) (·.dstate != .awaitingPayload) = true := by decide

/-- A state of 10_state R41 (a) in which OP_DISPATCH begins a frame. -/
theorem witness_DispatcherTransitions_modes : (received [0x53]).Inv ∧ (received [0x53]).ModesAgree :=
  ⟨inv_of_check (by decide), (inv_of_check (by decide)).modes⟩

theorem witness_Busy : (collecting 0 0 0 0 []).mstate ≠ .idle ∧ 1 < (collecting 0 0 0 0 []).cfg.pm.length := by decide

theorem witness_NotEnabled :
    State.reset.dstate ≠ .awaitingPayload ∧ State.reset.dstate ≠ .dispatching ∧ State.reset.mstate = .idle ∧
    (State.resetOf { Config.excfg with rxqDepth := some 1, payloadTimeout := none }).cfg.payloadTimeout = none ∧
    ({ State.resetOf { Config.excfg with rxqDepth := some 1 } with rxq := [0] } : State).rxReady = false ∧
    (let s := collecting 1 3 5000 5999 []
     s.dstate = .awaitingPayload ∧ s.rxq = [] ∧ s.cfg.payloadTimeout ≠ none ∧
       deadlinePassed s.cfg s.timer s.frameT0 = false) ∧
    (collecting 0 0 0 0 []).mstate ≠ .idle ∧ 1 < (collecting 0 0 0 0 []).cfg.pm.length ∧
    (received [0x58]).rxq.head? ≠ some 0x59 ∧ isUnregistered Config.excfg 0x53 = false := by decide

/-- The first and the last valid index byte, and the neighbours outside. -/
theorem witness_ServoRaw_ServoHex :
    Config.excfg.indexOffset = (0x20 : Byte).toNat ∧ (0x21 : Byte).toNat + 1 = Config.excfg.indexOffset + Config.excfg.nservo ∧
    (0x1F : Byte).toNat < Config.excfg.indexOffset ∧ Config.excfg.indexOffset + Config.excfg.nservo = (0x22 : Byte).toNat := by
  decide

/-- The ends of the three digit ranges and their neighbours outside. -/
theorem witness_digits :
    (DigitOf 0x30 0 ∧ DigitOf 0x39 9 ∧ DigitOf 0x41 10 ∧ DigitOf 0x46 15 ∧ DigitOf 0x61 10 ∧ DigitOf 0x66 15) ∧
    ∀ ch ∈ [(0x2F : Byte), 0x3A, 0x40, 0x47, 0x60, 0x67, 0xFF], ¬ IsDigit ch := by
  constructor
  · unfold DigitOf
    decide
  · intro ch h
    simp only [List.mem_cons, List.not_mem_nil, or_false] at h
    rintro ⟨n, hn⟩
    rcases h with rfl | rfl | rfl | rfl | rfl | rfl | rfl <;> simp [DigitOf] at hn

/-- A decoded field with a lower-case letter and one without. -/
theorem witness_HexRoundTrip :
    exec (.hexdec4 0x30 0x35 0x64 0x63) State.reset = .next { State.reset with result := .half (some 1500) } ∧
    exec (.hexdec4 0x30 0x35 0x44 0x43) State.reset = .next { State.reset with result := .half (some 1500) } :=
  ⟨rfl, rfl⟩

theorem witness_ReportLines :
    State.reset.cfg.pm[0]? = some ⟨0x50, 2, 1500⟩ ∧ 1 < (⟨0x50, 2, 1500⟩ : PulseModule).nch ∧
    State.reset.chan? 0 1 = some ⟨0, 0, false, 1500⟩ := by decide

theorem witness_AfterReset :
    State.reset.cfg.wf = true ∧ (∃ t, exec .reset State.reset = .next t) ∧
    State.reset.cfg.pm[1]? = some ⟨0x49, 1, 1500⟩ := ⟨by decide, ⟨_, rfl⟩, by decide⟩

/-- Each kind of change of a channel register: a rise, a fall, and a poll by each operation that polls. -/
theorem witness_ChannelRegisters :
    check (exec (.rise 0 0) (st 9 0 0 ⟨1, 2, true, 3⟩)) (·.chan? 0 0 == some ⟨9, 2, false, 3⟩) = true ∧
    check (exec (.fall 0 0) (st 9 0 0 ⟨1, 2, false, 3⟩)) (·.chan? 0 0 == some ⟨1, 9, true, 3⟩) = true ∧
    check (exec (.poll 0 0) (st 9 0 0 ⟨1, 2, true, 3⟩)) (·.chan? 0 0 == some ⟨1, 2, false, 1⟩) = true ∧
    check (exec (.updateChannel 0 0) (st 9 0 0 ⟨1, 2, true, 3⟩)) (·.chan? 0 0 == some ⟨1, 2, false, 1⟩) = true ∧
    check (exec .updateStep { st 9 0 0 ⟨1, 2, true, 3⟩ with mstate := .inUpdate 0 0 })
      (·.chan? 0 0 == some ⟨1, 2, false, 1⟩) = true := by decide

/-- Each kind of change of a control register. -/
theorem witness_ControlRegisters :
    check (exec .timerTick State.reset) (·.timer != 0) = true ∧
    check (exec .opDispatch { received [0x73] with timer := 5, cnt := 3 })
      (fun t => t.cur != 0 && t.frameT0 != 0 && t.cnt != 3 && t.mstate != .idle && t.rxq == []) = true ∧
    check (exec .payloadByte (collecting 1 0 0 0 [0x44])) (fun t => t.cnt != 0 && t.buf != State.reset.buf) = true ∧
    check (exec (.rxByte 1) State.reset) (·.rxq != []) = true ∧
    check (exec .frameTimeout (collecting 1 3 5000 6000 []))
      (fun t => t.dstate == .awaitingOpcode && t.mstate == .idle) = true := by decide

theorem witness_OutputTraces :
    check (exec (.servoRaw 0x20 0x2D) State.reset) (fun t => t.servoOut != [] && t.tx != []) = true := by decide

/-- States of the block of each kind: idle, updating, collecting, routing. -/
theorem witness_invariant_states :
    (received [0x58]).Inv ∧ ({ State.reset with mstate := .inUpdate 0 1 } : State).Inv ∧
    (collecting 1 4 5000 6000 []).Inv ∧ (routed 0 [0x20, 0x2D]).Inv :=
  ⟨inv_of_check (by decide), inv_of_check (by decide), inv_of_check (by decide), inv_of_check (by decide)⟩

/-- Signals of every port, in a state of the block. -/
theorem witness_NoRun_and_steps :
    let s : State := { State.reset with pending := [.port (.edgeRise 0 1) 1, .port .rx 0x158, .internal .payloadByte] }
    s.Inv ∧ s.PendingOk ∧ ∃ t, step s = .next t :=
  ⟨inv_of_check (by decide),
    fun g hg => by
      simp only [List.mem_cons, List.not_mem_nil, or_false] at hg
      rcases hg with rfl | rfl | rfl
      · exact ⟨.rise 0 1, by decide⟩
      · exact ⟨.rxByte 0x58, by decide⟩
      · exact ⟨.payloadByte, by decide⟩,
    ⟨_, rfl⟩⟩

/-- Each micro-step enabled, and a stuck state (one tick before the deadline). -/
theorem witness_EnabledMicro_Stuck :
    ({ State.reset with mstate := .inUpdate 0 1 } : State).enabledMicro = some .updateStep ∧
    (routed 0 [0x20, 0x2D]).enabledMicro = some .dispatchExec ∧
    (collecting 1 3 0 0 [0x30]).enabledMicro = some .payloadByte ∧
    (collecting 1 3 5000 6000 []).enabledMicro = some .frameTimeout ∧
    (collecting 1 3 5000 5999 []).enabledMicro = none ∧ (collecting 1 3 5000 5999 []).timeoutEnabled = false := by
  decide

/-- A decoded signal, a low strobe, a refused one, a micro-step, nothing. -/
theorem witness_StepRuns :
    Config.excfg.wf = true ∧ decodeSignal Config.excfg (.port .tmrTick 1) = .ok .timerTick ∧
    decodeSignal Config.excfg (.port .tmrTick 0) = .error .strobeLow ∧
    decodeSignal Config.excfg (.port (.edgeRise 0 2) 1) = .error .noSuchPort ∧
    (routed 0 [0x20, 0x2D]).pending = [] ∧ State.reset.pending = [] ∧ State.reset.enabledMicro = none := by decide

theorem witness_DuplicateOpcode :
    ({ Config.excfg with reg := Config.excfg.reg ++ [⟨0x53, 0, .external 0⟩] } : Config).reg[0]? = some ⟨0x53, 2, .servoRaw⟩ ∧
    ({ Config.excfg with reg := Config.excfg.reg ++ [⟨0x53, 0, .external 0⟩] } : Config).reg[2]? = some ⟨0x53, 0, .external 0⟩ := by
  decide

/-- A cycle of a busy block with both edges of one channel and a rise alone of another; the cycle of a reset. -/
theorem witness_ClockCycle :
    let s : State := { st 7 0 0 ⟨1, 2, true, 3⟩ with mstate := .inUpdate 0 0 }
    let x : CycleInputs := ⟨false, true, true, [], [], [(0, 0), (0, 1)], [(0, 0)], none, true⟩
    s.Inv ∧ s.pending = [] ∧ x.rst = false ∧ (0, 0) ∈ x.fall ∧ (0, 1) ∈ x.rise ∧ (0, 1) ∉ x.fall ∧
    ({ x with rst := true } : CycleInputs).rst = true ∧ s.cfg.wf = true :=
  ⟨inv_of_check (by decide), by decide, by decide, by decide, by decide, by decide, by decide, by decide⟩

/-- Each case of the main context's operation: a busy context that moves or stays; of an idle one's requests the
dispatch, the last module's update, its report, none. A byte is offered while `rx_ready` is high. -/
theorem witness_ClockCycle_main :
    let x : CycleInputs := ⟨false, true, true, [1], [0], [], [], some 0x41, false⟩
    let ops : CycleInputs → List Signal := State.mainSignals State.reset
    (collecting 0 0 0 0 [1]).mstate ≠ .idle ∧ x.micro = true ∧
    (collecting 0 0 0 0 [1]).mainSignals x = [.internal .payloadByte] ∧
    (collecting 0 0 0 0 [1]).mainSignals { x with micro := false } = [] ∧
    State.reset.mstate = .idle ∧ x.reqDispatch = true ∧ ops x = [.port .reqDispatch 1] ∧
    (1 < Config.excfg.pm.length ∧ (∀ j, j < 1 → j ∉ x.reqUpdate) ∧
      ops { x with reqDispatch := false } = [.port (.reqUpdate 1) 1]) ∧
    ((∀ j, j < Config.excfg.pm.length → j ∉ ([2] : List Nat)) ∧ (∀ j, j < 1 → j ∉ ([1, 2] : List Nat)) ∧
      ops { x with reqDispatch := false, reqUpdate := [2], reqReport := [2, 1] } = [.port (.reqReport 1) 1]) ∧
    ops { x with reqDispatch := false, reqUpdate := [2], reqReport := [] } = [] ∧
    State.reset.rxReady = true ∧ x.rx = some 0x41 := by decide

/-- The last channel and a value with every kind of digit; a byte port at its largest value. -/
theorem witness_DecodeOfEncode :
    (Instr.changeReport 0 1 0x0AF9).wf Config.excfg = true ∧
    encode Config.excfg 0 (.changeReport 0 1 0x0AF9) = some (.line [0x43, 0x50, 0x21, 0x30, 0x41, 0x46, 0x39]) ∧
    encode Config.excfg 0 (.rxByte 0xFF) = some (.signal (.port .rx 0b111111111)) := by decide

/-- A registered and an unregistered opcode with bytes behind them. -/
theorem witness_FrameLength :
    decodeFrame Config.excfg [0x53, 0x20, 0x2D, 0x58] = .ok (.servoRaw 0x20 0x2D, [0x58]) ∧
    decodeFrame Config.excfg [0x58, 0x53] = .ok (.unregistered 0x58, [0x53]) ∧
    (∀ e ∈ Config.excfg.reg, e.opcode ≠ 0x58) := by decide

end Sys2Proof.Tests
end

section
/-! SUPPORT. What the step fetches from each kind of state, and what it does with what it fetched: one equation per
case, so that no proof unfolds `State.fetch` or `step`. -/

namespace Sys2Proof.Machine

variable {s s1 : State} {g : Signal} {rest : List Signal} {i : Instr} {e : DecodeError} {m : MicroStep}

/-! ## The fetch -/

theorem State.fetch_of_pending_cons (hp : s.pending = g :: rest) :
    s.fetch = some (g, { s with pending := rest }) := by
  simp [State.fetch, hp]

theorem State.fetch_of_enabledMicro (hp : s.pending = []) (hm : s.enabledMicro = some m) :
    s.fetch = some (.internal m, s) := by
  simp [State.fetch, hp, hm]

theorem State.fetch_eq_none (hp : s.pending = []) (hm : s.enabledMicro = none) : s.fetch = none := by
  simp [State.fetch, hp, hm]

/-! ## The step after the fetch -/

theorem step_of_decoded (hwf : s.cfg.wf = true) (hf : s.fetch = some (g, s1))
    (hd : decodeSignal s.cfg g = .ok i) : step s = exec i s1 := by
  simp [step, hwf, hf, hd]

theorem step_of_strobeLow (hwf : s.cfg.wf = true) (hf : s.fetch = some (g, s1))
    (hd : decodeSignal s.cfg g = .error .strobeLow) : step s = .next s1 := by
  simp [step, hwf, hf, hd]

theorem step_of_illFormedSignal (hwf : s.cfg.wf = true) (hf : s.fetch = some (g, s1))
    (hd : decodeSignal s.cfg g = .error e) (he : e ≠ .strobeLow) : step s = .refused (.illFormedSignal e) := by
  simp [step, hwf, hf, hd]

theorem step_of_fetch_eq_none (hwf : s.cfg.wf = true) (hf : s.fetch = none) : step s = .next s := by
  simp [step, hwf, hf]

/-! ## The order of the step (log 5) -/

/-- Settles O52: each clause is what `fetch` yields there, followed by the step's equation for its decoding. -/
theorem stepRunsTheDecodedOperation : Obligations.StepRunsTheDecodedOperation := by
  intro s hwf
  refine ⟨?decoded, ?low, ?illFormed, ?micro, ?waits⟩
  case decoded =>
    intro g rest i hp hd
    exact step_of_decoded hwf (State.fetch_of_pending_cons hp) hd
  case low =>
    intro g rest hp hd
    exact step_of_strobeLow hwf (State.fetch_of_pending_cons hp) hd
  case illFormed =>
    intro g rest e hp hd he
    exact step_of_illFormedSignal hwf (State.fetch_of_pending_cons hp) hd he
  case micro =>
    intro m hp hm
    exact step_of_decoded hwf (State.fetch_of_enabledMicro hp hm) rfl
  case waits =>
    intro hp hm
    exact step_of_fetch_eq_none hwf (State.fetch_eq_none hp hm)

end Sys2Proof.Machine
end

section
/-! SUPPORT. The invariant of 10_state R41 as a layer of rules: what it says of a state read back, and one rule per
state update that keeps it. Proofs that an operation keeps the invariant compose these rules and do not take
`State.Inv` apart. -/

namespace Sys2Proof

/-! ## The configuration -/

theorem Config.len_le_maxLen {c : Config} {e : RegEntry} (h : e ∈ c.reg) : e.len ≤ c.maxLen := by
  unfold Config.maxLen
  generalize c.reg = es at h
  induction h with
  | head xs => exact le_max_left ..
  | tail x _ ih => exact ih.trans (le_max_right ..)

/-- The two servo rows of 30_encoding R82 stand in REG, so it has an entry. -/
theorem Config.reg_length_pos {c : Config} (h : c.wf = true) : 0 < c.reg.length := by
  simp only [Config.wf, decide_eq_true_eq] at h
  obtain ⟨-, -, -, -, -, -, -, -, hraw, -⟩ := h
  exact List.length_pos_of_mem hraw

/-- A module has a channel 0. -/
theorem Config.hasChannel_zero {c : Config} {k : Nat} {m : PulseModule} (h : c.wf = true) (hm : c.pm[k]? = some m) :
    c.hasChannel k 0 = true := by
  simp only [Config.wf, decide_eq_true_eq] at h
  obtain ⟨-, -, -, hnch, -⟩ := h
  have pos : 0 < m.nch := (hnch m (List.mem_of_getElem? hm)).1
  simpa [Config.hasChannel, hm] using pos

end Sys2Proof

namespace Sys2Proof.Machine

/-! ## One channel -/

/-- What the invariant says of a channel of `PM[k]`: TSW-bit stamps, and a held width that is the initial one or a
plausible one. -/
def Channel.Ok (cfg : Config) (k : Nat) (x : Channel) : Prop :=
  x.rising < 2 ^ cfg.tsw ∧ x.falling < 2 ^ cfg.tsw ∧
  ∀ m, cfg.pm[k]? = some m → x.lastWidth = m.initWidth ∨ x.lastWidth.toNat ≤ cfg.widthMax

/-- The width of a poll is the held one or a plausible one (41_pulse_channel R122, R123). -/
theorem Channel.width_cases (cfg : Config) (x : Channel) :
    x.width cfg = x.lastWidth ∨ (x.width cfg).toNat ≤ cfg.widthMax := by
  unfold Channel.width
  split
  · next h => exact .inr ((BitVec.toNat_ofNat ..).trans_le ((Nat.mod_le ..).trans (of_decide_eq_true h)))
  · exact .inl rfl

theorem Channel.Ok.stampRise {cfg : Config} {k n : Nat} {x : Channel} (h : x.Ok cfg k) (hn : n < 2 ^ cfg.tsw) :
    (x.stampRise n).Ok cfg k := by
  obtain ⟨-, hf, hw⟩ := h
  exact ⟨hn, hf, hw⟩

theorem Channel.Ok.stampFall {cfg : Config} {k n : Nat} {x : Channel} (h : x.Ok cfg k) (hn : n < 2 ^ cfg.tsw) :
    (x.stampFall n).Ok cfg k := by
  obtain ⟨hr, -, hw⟩ := h
  exact ⟨hr, hn, hw⟩

/-- The channel that a poll of a sample leaves. -/
theorem Channel.Ok.consumed {cfg : Config} {k : Nat} {x : Channel} (h : x.Ok cfg k) :
    Channel.Ok cfg k { x with hasNew := false, lastWidth := x.width cfg } := by
  obtain ⟨hr, hf, hw⟩ := h
  refine ⟨hr, hf, fun m hm => ?_⟩
  rcases x.width_cases cfg with e | hp
  · simpa only [e] using hw m hm
  · exact .inr hp

variable {s t : State}

/-- After a write to one channel, a channel read back is the one written or one that was there. -/
theorem State.chan?_setChan_cases {k c k' c' : Nat} {x y z : Channel} (hx : s.chan? k c = some x)
    (hz : (s.setChan k c y).chan? k' c' = some z) : (k' = k ∧ z = y) ∨ s.chan? k' c' = some z := by
  by_cases h : (k', c') = (k, c)
  · obtain ⟨rfl, rfl⟩ := Prod.mk.inj h
    rw [State.chan?_setChan_self hx] at hz
    exact .inl ⟨rfl, (Option.some.inj hz).symm⟩
  · rw [State.chan?_setChan_ne h] at hz
    exact .inr hz

theorem State.ShapeOk.setChan {k c : Nat} {y : Channel} (h : s.ShapeOk) : (s.setChan k c y).ShapeOk := by
  obtain ⟨hlen, hrow⟩ := h
  refine ⟨by simpa using hlen, fun k' m row hm hr => ?_⟩
  rw [State.setChan_ch, List.getElem?_modify] at hr
  obtain ⟨row', hr', rfl⟩ := Option.map_eq_some_iff.1 hr
  have hlen' := hrow k' m row' hm hr'
  split <;> simpa using hlen'

namespace State.Inv

/-! ## What the invariant says -/

theorem dstate_eq_awaitingOpcode (hs : s.Inv) (hm : s.mstate ≠ .inDispatch) : s.dstate = .awaitingOpcode := by
  by_contra hd
  exact hm (hs.modes.2 hd)

theorem timer_lt (hs : s.Inv) : s.timer < 2 ^ s.cfg.tsw := hs.widths.1

theorem channelOk {k c : Nat} {x : Channel} (hs : s.Inv) (hx : s.chan? k c = some x) : x.Ok s.cfg k := by
  obtain ⟨-, -, hw⟩ := hs.widths
  obtain ⟨hr, hf⟩ := hw k c x hx
  exact ⟨hr, hf, fun m hm => hs.held k c m x hm hx⟩

/-! ## Updates that keep it -/

/-- The invariant says nothing of the model's own fields (logs 4, 5, 7). -/
theorem ownFields (hs : s.Inv) (p : List Signal) (r : Result) (n : Nat) :
    State.Inv { s with pending := p, result := r, freeCount := n } :=
  { hs with }

theorem setResult (hs : s.Inv) (r : Result) : (s.setResult r).Inv := hs.ownFields s.pending r s.freeCount

theorem withPending (hs : s.Inv) (p : List Signal) : (s.withPending p).Inv := hs.ownFields p s.result s.freeCount

theorem setTimer {n : Nat} (hs : s.Inv) (hn : n < 2 ^ s.cfg.tsw) : State.Inv { s with timer := n } :=
  { hs with widths := ⟨hn, hs.widths.2⟩ }

theorem setChan {k c : Nat} {x y : Channel} (hs : s.Inv) (hx : s.chan? k c = some x) (hy : y.Ok s.cfg k) :
    (s.setChan k c y).Inv := by
  obtain ⟨hyr, hyf, hyw⟩ := hy
  obtain ⟨ht, ht0, hw⟩ := hs.widths
  refine { hs with shape := hs.shape.setChan, widths := ⟨ht, ht0, fun k' c' z hz => ?_⟩,
                   held := fun k' c' m z hm hz => ?_ }
  · rcases State.chan?_setChan_cases hx hz with ⟨rfl, rfl⟩ | hz
    · exact ⟨hyr, hyf⟩
    · exact hw k' c' z hz
  · rcases State.chan?_setChan_cases hx hz with ⟨rfl, rfl⟩ | hz
    · exact hyw m hm
    · exact hs.held k' c' m z hm hz

/-- Whole lines and writes of internal servo indexes: what any handler adds (44_modules R208, R209). -/
theorem emit (hs : s.Inv) (lines : List (List Byte)) {ws : List ServoWrite} (hws : ∀ w ∈ ws, w.idx < s.cfg.nservo)
    (n : Nat) : State.Inv { s with
      tx := s.tx ++ (lines.map (· ++ s.cfg.eol)).flatten
      servoOut := s.servoOut ++ ws
      freeCount := n } := by
  obtain ⟨old, hold⟩ := hs.lines
  refine { hs with lines := ⟨old ++ lines, by simp [hold]⟩, servo := fun w hw => ?_ }
  rcases List.mem_append.1 hw with hw | hw
  · exact hs.servo w hw
  · exact hws w hw

theorem emitLines (hs : s.Inv) (lines : List (List Byte)) : (s.txEmit (lines.map (· ++ s.cfg.eol)).flatten).Inv := by
  simpa [State.txEmit] using hs.emit lines (ws := []) (by simp) s.freeCount

theorem emitLine (hs : s.Inv) (bytes : List Byte) : (s.emitLine bytes).Inv := by
  simpa [State.emitLine] using hs.emitLines [bytes]

theorem rxPush (hs : s.Inv) (h : s.rxReady = true) (b : Byte) : (s.rxPush b).Inv := by
  refine { hs with rxq := fun d hd => ?_ }
  have hd' : s.cfg.rxqDepth = some d := hd
  have room : s.rxq.length < d := by simpa [State.rxReady, hd'] using h
  simpa using room

theorem rxTail {b : Byte} {rest : List Byte} (hs : s.Inv) (hr : s.rxq = b :: rest) :
    State.Inv { s with rxq := rest } := by
  refine { hs with rxq := fun d hd => ?_ }
  have full := hs.rxq d hd
  rw [hr] at full
  exact (Nat.le_succ _).trans full

/-- OP_DISPATCH starts a frame of an entry of REG (42_command_dispatcher R142). -/
theorem beginFrame {i : Nat} {e : RegEntry} (hs : s.Inv) (he : s.cfg.reg[i]? = some e) :
    (beginFrame i e s).Inv := by
  obtain ⟨ht, -, hw⟩ := hs.widths
  obtain ⟨-, -, hbuf, -⟩ := hs.frame
  refine { hs with widths := ⟨ht, ht, hw⟩, modes := ?modes, update := ?update,
                   frame := ⟨(List.getElem?_eq_some_iff.1 he).1, Nat.zero_le _, hbuf, ?frame⟩ }
  case modes =>
    simp only [State.ModesAgree, beginFrame_mstate, beginFrame_dstate, true_iff]
    split <;> simp
  case update =>
    intro k c h
    cases h
  case frame =>
    intro e' he'
    obtain rfl : e = e' := Option.some.inj (he.symm.trans he')
    simp only [beginFrame_dstate, beginFrame_cnt]
    split
    · next h0 => simp [h0]
    · next h0 => simpa using Nat.pos_of_ne_zero h0

/-- PAYLOAD_BYTE stores the oldest byte and counts it (42_command_dispatcher R144). -/
theorem storePayloadByte {b : Byte} {rest : List Byte} {e : RegEntry} (hs : s.Inv) (hd : s.dstate = .awaitingPayload)
    (hr : s.rxq = b :: rest) (he : s.cfg.reg[s.cur]? = some e) :
    State.Inv { s with
      rxq := rest
      buf := s.buf.set s.cnt b
      cnt := s.cnt + 1
      dstate := if s.cnt + 1 = e.len then .dispatching else s.dstate } := by
  obtain ⟨hcur, -, hbuf, hentry⟩ := hs.frame
  have hlt : s.cnt < e.len := (hentry e he).1 hd
  have hmax : e.len ≤ s.cfg.maxLen := Config.len_le_maxLen (List.mem_of_getElem? he)
  have hm : s.mstate = .inDispatch := hs.modes.2 (by simp [hd])
  refine { hs with rxq := (hs.rxTail hr).rxq, modes := ?modes,
                   frame := ⟨hcur, hlt.trans_le hmax, by simpa using hbuf, ?frame⟩ }
  case modes =>
    simp only [State.ModesAgree, hm, hd, true_iff]
    split <;> simp
  case frame =>
    intro e' he'
    obtain rfl : e = e' := Option.some.inj (he.symm.trans he')
    simp only [hd]
    split
    · next hlast => simp [hlast]
    · next hmore => simpa using lt_of_le_of_ne hlt hmore

/-- The main context becomes free, by FRAME_TIMEOUT or after a handler (42_command_dispatcher R145, R146). -/
theorem setMain_idle (hs : s.Inv) : (s.setMain .awaitingOpcode .idle).Inv := by
  obtain ⟨hcur, hcnt, hbuf, -⟩ := hs.frame
  exact { hs with
    modes := by simp [State.ModesAgree]
    update := fun _ _ h => by cases h
    frame := ⟨hcur, hcnt, hbuf, fun _ _ => by simp⟩ }

/-- The sequencer moves while the dispatcher awaits an opcode (44_modules R193). -/
theorem setMState {m : MState} (hs : s.Inv) (hd : s.dstate = .awaitingOpcode) (hm : m ≠ .inDispatch)
    (hr : ∀ k c, m = .inUpdate k c → s.cfg.hasChannel k c = true) : State.Inv { s with mstate := m } :=
  { hs with
    modes := by simp [State.ModesAgree, hd, hm]
    update := hr }

/-- While an opcode is awaited the frame registers are free inside their ranges (10_state R30, R32, R33, R40). -/
theorem setFrameRegisters {n f : Nat} {bs : List Byte} (hs : s.Inv) (hd : s.dstate = .awaitingOpcode)
    (hn : n < s.cfg.reg.length) (hbs : bs.length = s.cfg.maxLen) (hf : f < 2 ^ s.cfg.tsw) :
    State.Inv { s with cur := n, buf := bs, frameT0 := f } := by
  obtain ⟨ht, -, hw⟩ := hs.widths
  obtain ⟨-, hcnt, -, -⟩ := hs.frame
  exact { hs with
    widths := ⟨ht, hf, hw⟩
    frame := ⟨hn, hcnt, hbs, fun _ _ => by simp [hd]⟩ }

end State.Inv

end Sys2Proof.Machine
end

section
/-! SUPPORT. The states after reset (10_state R40; 70_reset_and_hazards R250): the table of reset values, and the
invariant in each of them. -/

namespace Sys2Proof.Machine

theorem resetOf_chan? (cfg : Config) (k c : Nat) :
    (State.resetOf cfg).chan? k c =
      cfg.pm[k]?.bind fun m => if c < m.nch then some (Channel.atReset m.initWidth) else none := by
  cases hm : cfg.pm[k]? <;> simp [State.chan?, State.resetOf, resetChannels, hm, List.getElem?_replicate]

/-- Settles O40: the channels are those of `State.resetOf`, every other entry is a field that `execReset` writes. -/
theorem resetGivesTheTableOfResetValues : Obligations.ResetGivesTheTableOfResetValues := by
  intro s
  refine ⟨_, rfl, fun k c => ?_, rfl, rfl, rfl, rfl, rfl, rfl, rfl, rfl⟩
  refine (resetOf_chan? s.cfg k c).trans ?_
  cases s.cfg.pm[k]? <;> rfl

/-- A channel of the reset state is at reset, with its module's initial width. -/
theorem resetOf_chan?_eq_some {cfg : Config} {k c : Nat} {x : Channel} (hx : (State.resetOf cfg).chan? k c = some x) :
    ∃ m, cfg.pm[k]? = some m ∧ x = Channel.atReset m.initWidth := by
  rw [resetOf_chan?] at hx
  obtain ⟨m, hm, hx⟩ := Option.bind_eq_some_iff.1 hx
  obtain ⟨-, hx⟩ := Option.ite_none_right_eq_some.1 hx
  exact ⟨m, hm, (Option.some.inj hx).symm⟩

theorem resetOf_shapeOk (cfg : Config) : (State.resetOf cfg).ShapeOk := by
  refine ⟨by simp [State.resetOf, resetChannels], fun k m row hm hrow => ?_⟩
  have hm' : cfg.pm[k]? = some m := hm
  simp only [State.resetOf, resetChannels, List.getElem?_map, hm', Option.map_some, Option.some.injEq] at hrow
  simp [← hrow]

theorem resetOf_inv {cfg : Config} (h : cfg.wf = true) : (State.resetOf cfg).Inv where
  config := h
  shape := resetOf_shapeOk cfg
  widths := by
    refine ⟨Nat.two_pow_pos _, Nat.two_pow_pos _, fun k c x hx => ?_⟩
    obtain ⟨m, -, rfl⟩ := resetOf_chan?_eq_some hx
    exact ⟨Nat.two_pow_pos _, Nat.two_pow_pos _⟩
  modes := by simp [State.ModesAgree, State.resetOf]
  update := fun _ _ hm => by cases hm
  frame := ⟨Config.reg_length_pos h, Nat.zero_le _, List.length_replicate, fun _ _ => by simp [State.resetOf]⟩
  held := by
    intro k c m x hm hx
    obtain ⟨m', hm', rfl⟩ := resetOf_chan?_eq_some hx
    obtain rfl : m = m' := Option.some.inj (hm.symm.trans hm')
    exact .inl rfl
  lines := ⟨[], rfl⟩
  rxq := fun _ _ => Nat.zero_le _
  servo := fun _ hw => by cases hw

/-- RESET draws the three unspecified registers inside their ranges (log 4). -/
theorem execReset_keeps_inv {s t : State} (hwf : s.cfg.wf = true) (h : execReset s = .next t) : t.Inv := by
  cases h
  have hcur := Nat.mod_lt (Config.freeCur s.freeCount) (Config.reg_length_pos hwf)
  have ht0 := Nat.mod_lt (Config.freeFrameT0 s.freeCount) (Nat.two_pow_pos s.cfg.tsw)
  exact ((resetOf_inv hwf).setFrameRegisters rfl hcur (by simp [State.resetOf]) ht0).ownFields _ _ _

/-- Settles O42: `resetOf_inv` at the example configuration and at every one; RESET by `execReset_keeps_inv`. -/
theorem resetStatesSatisfyTheInvariant : Obligations.ResetStatesSatisfyTheInvariant :=
  ⟨resetOf_inv (by decide), fun _ => resetOf_inv, fun _ hwf => ⟨_, rfl, execReset_keeps_inv hwf rfl, rfl, rfl⟩⟩

end Sys2Proof.Machine
end

section
/-! SUPPORT. Every operation and every step keeps the invariant (10_state R41). -/

namespace Sys2Proof.Machine

variable {s t : State}

/-! ## The shared operations -/

theorem changeLine_keeps_inv {k c : Nat} {w : Half} (hs : s.Inv) (h : changeLine k c w s = .next t) : t.Inv := by
  obtain ⟨m, -, -, rfl⟩ := changeLine_eq_next.1 h
  exact hs.emitLine _

theorem fullLine_keeps_inv {k c : Nat} (hs : s.Inv) (h : fullLine k c s = .next t) : t.Inv := by
  obtain ⟨m, x, -, -, rfl⟩ := fullLine_eq_next.1 h
  exact hs.emitLine _

theorem observeChannel_keeps_inv {k c : Nat} (hs : s.Inv) (h : observeChannel k c s = .next t) : t.Inv := by
  obtain ⟨x, hx, ⟨-, rfl⟩ | ⟨-, -, rfl⟩ | ⟨-, -, m, -, -, rfl⟩⟩ := observeChannel_eq_next.1 h
  · exact hs
  · exact hs.setChan hx (hs.channelOk hx).consumed
  · exact (hs.setChan hx (hs.channelOk hx).consumed).emitLine _

theorem observeChannel_dstate {k c : Nat} (h : observeChannel k c s = .next t) : t.dstate = s.dstate := by
  obtain ⟨x, -, ⟨-, rfl⟩ | ⟨-, -, rfl⟩ | ⟨-, -, m, -, -, rfl⟩⟩ := observeChannel_eq_next.1 h <;> rfl

theorem runHandler_keeps_inv {h : Handler} {op : Byte} {p : List Byte} (hs : s.Inv)
    (hr : runHandler h op p s = .next t) : t.Inv := by
  obtain ⟨lines, ws, n, hws, e⟩ := runHandler_cases h op p s
  cases e.symm.trans hr
  exact hs.emit lines hws n

/-! ## The operations with more than one way to end -/

theorem execPoll_keeps_inv {k c : Nat} (hs : s.Inv) (h : execPoll k c s = .next t) : t.Inv := by
  obtain ⟨x, hx, ⟨-, rfl⟩ | ⟨-, rfl⟩⟩ := execPoll_eq_next.1 h
  · exact hs.setResult _
  · exact (hs.setChan hx (hs.channelOk hx).consumed).setResult _

theorem execRxByte_keeps_inv {d : Byte} (hs : s.Inv) (h : execRxByte d s = .next t) : t.Inv := by
  obtain ⟨hr, e⟩ | ⟨-, e⟩ := execRxByte_cases d s <;> cases e.symm.trans h
  · exact hs.rxPush hr d
  · exact hs

theorem execOpDispatch_keeps_inv (hs : s.Inv) (h : execOpDispatch s = .next t) : t.Inv := by
  obtain ⟨-, e⟩ | ⟨b, rest, -, hr, -, e⟩ | ⟨b, rest, i, e', -, hr, hl, e⟩ := execOpDispatch_cases s <;>
    cases e.symm.trans h
  · exact hs
  · exact hs.rxTail hr
  · exact (hs.rxTail hr).beginFrame (lookup_eq_some hl).1

theorem execUnregistered_keeps_inv {b : Byte} (hs : s.Inv) (h : execUnregistered b s = .next t) : t.Inv := by
  obtain e | ⟨rest, -, hr, -, e⟩ := execUnregistered_cases b s <;> cases e.symm.trans h
  · exact hs
  · exact hs.rxTail hr

theorem execPayloadByte_keeps_inv (hs : s.Inv) (h : execPayloadByte s = .next t) : t.Inv := by
  obtain rfl | ⟨b, rest, e, hd, hr, he, rfl⟩ := execPayloadByte_eq_next h
  · exact hs
  · exact hs.storePayloadByte hd hr he

theorem execFrameTimeout_keeps_inv (hs : s.Inv) (h : execFrameTimeout s = .next t) : t.Inv := by
  obtain ⟨-, e⟩ | ⟨-, e⟩ := execFrameTimeout_cases s <;> cases e.symm.trans h
  · exact hs.setMain_idle
  · exact hs

theorem execDispatchExec_keeps_inv (hs : s.Inv) (h : execDispatchExec s = .next t) : t.Inv := by
  obtain rfl | ⟨e, u, -, -, hu, rfl⟩ := execDispatchExec_eq_next h
  · exact hs
  · exact (runHandler_keeps_inv hs hu).setMain_idle

theorem execOpUpdate_keeps_inv {k : Nat} (hs : s.Inv) (h : execOpUpdate k s = .next t) : t.Inv := by
  obtain ⟨m, hm, ⟨-, rfl⟩ | ⟨hi, rfl⟩⟩ := execOpUpdate_eq_next.1 h
  · exact hs
  · refine hs.setMState (hs.dstate_eq_awaitingOpcode (by simp [hi])) (by simp) fun k' c' e => ?_
    cases e
    exact Config.hasChannel_zero hs.config hm

theorem execUpdateStep_keeps_inv (hs : s.Inv) (h : execUpdateStep s = .next t) : t.Inv := by
  obtain rfl | ⟨k, c, u, m, hk, hu, hm, rfl⟩ := execUpdateStep_eq_next h
  · exact hs
  · have hd : u.dstate = .awaitingOpcode :=
      (observeChannel_dstate hu).trans (hs.dstate_eq_awaitingOpcode (by simp [hk]))
    refine (observeChannel_keeps_inv hs hu).setMState hd (by split <;> simp) fun k' c' e => ?_
    split at e
    · next hc =>
      cases e
      simpa [Config.hasChannel, hm] using hc
    · cases e

theorem execOpReport_keeps_inv {k : Nat} (hs : s.Inv) (h : execOpReport k s = .next t) : t.Inv := by
  obtain ⟨lines, rfl⟩ := execOpReport_eq_next h
  exact hs.emitLines lines

/-! ## Every operation, every step -/

/-- Every operation that answers a next state keeps the invariant, well formed or not. -/
theorem exec_keeps_inv {i : Instr} (hs : s.Inv) (h : exec i s = .next t) : t.Inv := by
  cases i
  case servoRaw b v => exact runHandler_keeps_inv (h := .servoRaw) (p := [b, v]) hs h
  case servoHex b h3 h2 h1 h0 => exact runHandler_keeps_inv (h := .servoHex) (p := [b, h3, h2, h1, h0]) hs h
  case unregistered b => exact execUnregistered_keeps_inv hs h
  case changeReport k c w => exact changeLine_keeps_inv hs h
  case fullReport k c => exact fullLine_keeps_inv hs h
  case rise k c =>
    obtain ⟨x, hx, rfl⟩ := execRise_eq_next.1 h
    exact hs.setChan hx ((hs.channelOk hx).stampRise hs.timer_lt)
  case fall k c =>
    obtain ⟨x, hx, rfl⟩ := execFall_eq_next.1 h
    exact hs.setChan hx ((hs.channelOk hx).stampFall hs.timer_lt)
  case rxByte d => exact execRxByte_keeps_inv hs h
  case opDispatch => exact execOpDispatch_keeps_inv hs h
  case opUpdate k => exact execOpUpdate_keeps_inv hs h
  case opReport k => exact execOpReport_keeps_inv hs h
  case reset => exact execReset_keeps_inv hs.config h
  case payloadByte => exact execPayloadByte_keeps_inv hs h
  case frameTimeout => exact execFrameTimeout_keeps_inv hs h
  case dispatchExec => exact execDispatchExec_keeps_inv hs h
  case updateStep => exact execUpdateStep_keeps_inv hs h
  case poll k c => exact execPoll_keeps_inv hs h
  case updateChannel k c => exact observeChannel_keeps_inv hs h
  case timerTick => cases h; exact hs.setTimer (incWrap_lt _ _)
  case ackServoRaw | ackServoHex | txLine => cases h; exact hs.emitLine _
  case hexdigit | hex2 | hex4 | hex8 | hexval | hexdec4 => cases h; exact hs.setResult _

/-- What a step can do: wait, pass over a low strobe, or execute the decoded operation; only the pending signals differ
from `s` before that. -/
theorem step_eq_next (h : step s = .next t) :
    t = s ∨ ∃ p, t = s.withPending p ∨ ∃ i, exec i (s.withPending p) = .next t := by
  unfold step at h
  split at h
  · rcases s.fetch_cases with ⟨hf, -⟩ | ⟨m, hf, -⟩ | ⟨g, rest, hf, -⟩ <;> simp only [hf] at h
    · cases h; exact .inl rfl
    · exact .inr ⟨s.pending, .inr ⟨m.instr, h⟩⟩
    · refine .inr ⟨rest, ?_⟩
      split at h
      · next i _ => exact .inr ⟨i, h⟩
      · cases h; exact .inl rfl
      · cases h
  · cases h

/-- Settles O48: a step is an operation after a change of the pending signals, and both keep the invariant. -/
theorem everyStepKeepsTheInvariant : Obligations.EveryStepKeepsTheInvariant := by
  intro s t hs h
  obtain rfl | ⟨p, rfl | ⟨i, hi⟩⟩ := step_eq_next h
  · exact hs
  · exact hs.withPending p
  · exact exec_keeps_inv (hs.withPending p) hi

end Sys2Proof.Machine
end

section
/-! SUPPORT. What each operation adds to the output traces `tx` and `servo_out` (10_state R36, R37; 20_memory R62). -/

namespace Sys2Proof.Machine

/-- Neither trace grew. -/
def Silent (s t : State) : Prop := t.tx = s.tx ∧ t.servoOut = s.servoOut

/-- `tx` grew by whole lines, `servo_out` not at all. -/
def AppendsLines (s t : State) : Prop :=
  ∃ lines : List (List Byte), t.tx = s.tx ++ (lines.map (· ++ s.cfg.eol)).flatten ∧ t.servoOut = s.servoOut

/-- `tx` grew by whole lines, `servo_out` by writes of internal servo indexes. -/
def AppendsLinesAndWrites (s t : State) : Prop :=
  ∃ (lines : List (List Byte)) (ws : List ServoWrite),
    t.tx = s.tx ++ (lines.map (· ++ s.cfg.eol)).flatten ∧ t.servoOut = s.servoOut ++ ws ∧
    ∀ w ∈ ws, w.idx < s.cfg.nservo

variable {s t : State}

theorem Silent.refl (s : State) : Silent s s := ⟨rfl, rfl⟩

theorem Silent.appendsLines (h : Silent s t) : AppendsLines s t := by
  obtain ⟨htx, hso⟩ := h
  exact ⟨[], by simpa using htx, hso⟩

theorem appendsLines_emitLine (s : State) (bytes : List Byte) : AppendsLines s (s.emitLine bytes) :=
  ⟨[bytes], by simp, rfl⟩

/-! ## The shared operations -/

theorem changeLine_appendsLines {k c : Nat} {w : Half} (h : changeLine k c w s = .next t) : AppendsLines s t := by
  obtain ⟨m, -, -, rfl⟩ := changeLine_eq_next.1 h
  exact appendsLines_emitLine s _

theorem fullLine_appendsLines {k c : Nat} (h : fullLine k c s = .next t) : AppendsLines s t := by
  obtain ⟨m, x, -, -, rfl⟩ := fullLine_eq_next.1 h
  exact appendsLines_emitLine s _

theorem observeChannel_appendsLines {k c : Nat} (h : observeChannel k c s = .next t) : AppendsLines s t := by
  obtain ⟨x, -, ⟨-, rfl⟩ | ⟨-, -, rfl⟩ | ⟨-, -, m, -, -, rfl⟩⟩ := observeChannel_eq_next.1 h
  · exact (Silent.refl _).appendsLines
  · exact Silent.appendsLines ⟨rfl, rfl⟩
  · exact appendsLines_emitLine (s.setChan ..) _

theorem runHandler_appends {h : Handler} {op : Byte} {p : List Byte} (hr : runHandler h op p s = .next t) :
    AppendsLinesAndWrites s t := by
  obtain ⟨lines, ws, n, hws, e⟩ := runHandler_cases h op p s
  cases e.symm.trans hr
  exact ⟨lines, ws, rfl, rfl, hws⟩

/-! ## The operations that emit nothing -/

theorem execPoll_silent {k c : Nat} (h : execPoll k c s = .next t) : Silent s t := by
  obtain ⟨x, -, ⟨-, rfl⟩ | ⟨-, rfl⟩⟩ := execPoll_eq_next.1 h <;> exact ⟨rfl, rfl⟩

theorem execRxByte_silent {d : Byte} (h : execRxByte d s = .next t) : Silent s t := by
  obtain ⟨-, e⟩ | ⟨-, e⟩ := execRxByte_cases d s <;> cases e.symm.trans h <;> exact ⟨rfl, rfl⟩

theorem execOpDispatch_silent (h : execOpDispatch s = .next t) : Silent s t := by
  obtain ⟨-, e⟩ | ⟨b, rest, -, -, -, e⟩ | ⟨b, rest, i, e', -, -, -, e⟩ := execOpDispatch_cases s <;>
    cases e.symm.trans h <;> exact ⟨rfl, rfl⟩

theorem execUnregistered_silent {b : Byte} (h : execUnregistered b s = .next t) : Silent s t := by
  obtain e | ⟨rest, -, -, -, e⟩ := execUnregistered_cases b s <;> cases e.symm.trans h <;> exact ⟨rfl, rfl⟩

theorem execPayloadByte_silent (h : execPayloadByte s = .next t) : Silent s t := by
  obtain rfl | ⟨b, rest, e, -, -, -, rfl⟩ := execPayloadByte_eq_next h <;> exact ⟨rfl, rfl⟩

theorem execFrameTimeout_silent (h : execFrameTimeout s = .next t) : Silent s t := by
  obtain ⟨-, e⟩ | ⟨-, e⟩ := execFrameTimeout_cases s <;> cases e.symm.trans h <;> exact ⟨rfl, rfl⟩

theorem execOpUpdate_silent {k : Nat} (h : execOpUpdate k s = .next t) : Silent s t := by
  obtain ⟨m, -, ⟨-, rfl⟩ | ⟨-, rfl⟩⟩ := execOpUpdate_eq_next.1 h <;> exact ⟨rfl, rfl⟩

/-! ## The operations that emit lines, and the routed frame -/

theorem execUpdateStep_appendsLines (h : execUpdateStep s = .next t) : AppendsLines s t := by
  obtain rfl | ⟨k, c, u, m, -, hu, -, rfl⟩ := execUpdateStep_eq_next h
  · exact (Silent.refl _).appendsLines
  · have grown : AppendsLines s u := observeChannel_appendsLines hu
    exact grown

theorem execOpReport_appendsLines {k : Nat} (h : execOpReport k s = .next t) : AppendsLines s t := by
  obtain ⟨lines, rfl⟩ := execOpReport_eq_next h
  exact ⟨lines, rfl, rfl⟩

theorem execDispatchExec_appends (h : execDispatchExec s = .next t) : AppendsLinesAndWrites s t := by
  obtain rfl | ⟨e, u, -, -, hu, rfl⟩ := execDispatchExec_eq_next h
  · exact ⟨[], [], by simp, by simp, by simp⟩
  · have grown : AppendsLinesAndWrites s u := runHandler_appends hu
    exact grown

/-! ## Every operation -/

/-- The operations that may write to `servo_out`. -/
def IsServoCommand (i : Instr) : Prop :=
  i = .dispatchExec ∨ (∃ b v, i = .servoRaw b v) ∨ ∃ b h3 h2 h1 h0, i = .servoHex b h3 h2 h1 h0

/-- What an operation may add to the traces: lines unless it is an edge, a tick, a received byte or a poll, and writes
if it is a servo command. -/
theorem exec_traces {i : Instr} (h : exec i s = .next t) (hi : i ≠ .reset) :
    Silent s t ∨ (sampleOp i = false ∧ AppendsLines s t) ∨
      (sampleOp i = false ∧ IsServoCommand i ∧ AppendsLinesAndWrites s t) := by
  cases i
  case reset => exact absurd rfl hi
  case timerTick | hexdigit | hex2 | hex4 | hex8 | hexval | hexdec4 => cases h; exact .inl ⟨rfl, rfl⟩
  case rise k c =>
    obtain ⟨x, -, rfl⟩ := execRise_eq_next.1 h
    exact .inl ⟨rfl, rfl⟩
  case fall k c =>
    obtain ⟨x, -, rfl⟩ := execFall_eq_next.1 h
    exact .inl ⟨rfl, rfl⟩
  case poll k c => exact .inl (execPoll_silent h)
  case rxByte d => exact .inl (execRxByte_silent h)
  case opDispatch => exact .inl (execOpDispatch_silent h)
  case unregistered b => exact .inl (execUnregistered_silent h)
  case payloadByte => exact .inl (execPayloadByte_silent h)
  case frameTimeout => exact .inl (execFrameTimeout_silent h)
  case opUpdate k => exact .inl (execOpUpdate_silent h)
  case ackServoRaw | ackServoHex | txLine => cases h; exact .inr (.inl ⟨rfl, appendsLines_emitLine s _⟩)
  case changeReport k c w => exact .inr (.inl ⟨rfl, changeLine_appendsLines h⟩)
  case fullReport k c => exact .inr (.inl ⟨rfl, fullLine_appendsLines h⟩)
  case opReport k => exact .inr (.inl ⟨rfl, execOpReport_appendsLines h⟩)
  case updateChannel k c => exact .inr (.inl ⟨rfl, observeChannel_appendsLines h⟩)
  case updateStep => exact .inr (.inl ⟨rfl, execUpdateStep_appendsLines h⟩)
  case dispatchExec => exact .inr (.inr ⟨rfl, .inl rfl, execDispatchExec_appends h⟩)
  case servoRaw b v =>
    exact .inr (.inr ⟨rfl, .inr (.inl ⟨b, v, rfl⟩), runHandler_appends (h := .servoRaw) (p := [b, v]) h⟩)
  case servoHex b h3 h2 h1 h0 =>
    exact .inr (.inr ⟨rfl, .inr (.inr ⟨b, h3, h2, h1, h0, rfl⟩),
      runHandler_appends (h := .servoHex) (p := [b, h3, h2, h1, h0]) h⟩)

/-- Settles O45, from the three ways of `exec_traces`. -/
theorem outputTracesOnlyGrowByWholeLines : Obligations.OutputTracesOnlyGrowByWholeLines := by
  intro i s t h hi
  rcases exec_traces h hi with ⟨htx, hso⟩ | ⟨hsample, lines, htx, hso⟩ | ⟨hsample, hservo, lines, ws, htx, hso, hws⟩
  · exact ⟨[], [], by simpa using htx, by simpa using hso, by simp, by simp, fun _ => rfl⟩
  · exact ⟨lines, [], htx, by simpa using hso, by simp, by simp, by simp [hsample]⟩
  · exact ⟨lines, ws, htx, hso, hws, fun _ => hservo, by simp [hsample]⟩

end Sys2Proof.Machine
end

section
/-! SUPPORT. The addresses that the channel index space does not have (20_memory R50): what an access to one answers. -/

namespace Sys2Proof.Machine

variable {s : State} {k c : Nat}

theorem withChannel_none (h : s.chan? k c = none) (f : Channel → Out) :
    withChannel k c s f = .fault .noSuchChannel := by simp [withChannel, h]

theorem withModule_none (h : s.cfg.pm.length ≤ k) (f : PulseModule → Out) :
    withModule k s f = .fault .noSuchModule := by simp [withModule, h]

/-- Settles O5: the operations of a channel read it first, those of a module read the module first, and the two report
lines then read the channel in the module. -/
theorem addressOutsideTheIndexSpacesStops : Obligations.AddressOutsideTheIndexSpacesStops := by
  refine ⟨fun s k c h => ?channel, fun s k c w h => ?module,
    fun s k c m w hm => ⟨fun hc => ?change, fun h => ?full⟩⟩
  case channel => exact ⟨withChannel_none h _, withChannel_none h _, withChannel_none h _, withChannel_none h _⟩
  case module => exact ⟨withModule_none h _, withModule_none h _, withModule_none h _, withModule_none h _⟩
  case change => exact (withModule_some hm _).trans (if_neg (Nat.not_lt.2 hc))
  case full => exact (withModule_some hm _).trans (withChannel_none h _)

end Sys2Proof.Machine
end

section
/-! SUPPORT. Operations on different channels commute (20_memory R59). An operation on one channel neither sees nor
undoes a write to another one (`exec_setChan_of_ne`), and it leaves what an edge of another one reads
(`exec_keeps_otherChannel`). -/

namespace Sys2Proof.Machine

variable {s t : State} {k c k' c' : Nat} {x y z : Channel}

/-- An outcome with `ch[k][c] <- y` made after it. -/
def thenSetChan (k c : Nat) (y : Channel) (o : Out) : Out := andThen o fun t => .next (t.setChan k c y)

/-- The operations on one channel that 20_memory R59 sets against an edge of another one. -/
inductive IsChannelOp (k c : Nat) : Instr → Prop
  | rise : IsChannelOp k c (.rise k c)
  | fall : IsChannelOp k c (.fall k c)
  | poll : IsChannelOp k c (.poll k c)
  | updateChannel : IsChannelOp k c (.updateChannel k c)
  | fullReport : IsChannelOp k c (.fullReport k c)

/-! ## Writes to different channels -/

theorem State.setChan_comm (h : (k, c) ≠ (k', c')) :
    (s.setChan k c y).setChan k' c' z = (s.setChan k' c' z).setChan k c y := by
  have rows : (s.ch.modify k (·.set c y)).modify k' (·.set c' z) =
      (s.ch.modify k' (·.set c' z)).modify k (·.set c y) := by
    ext1 n
    simp only [List.getElem?_modify]
    by_cases hk : k = k'
    · subst hk
      have hc : c ≠ c' := fun e => h (by rw [e])
      by_cases hn : k = n <;> simp [hn, Function.comp_def, List.set_comm _ _ hc]
    · by_cases hn : k = n
      · have hn' : k' ≠ n := by omega
        simp [hn, hn']
      · simp [hn]
  simp [State.setChan, rows]

theorem withChannel_setChan_of_ne {f g : Channel → Out} (hne : (k', c') ≠ (k, c))
    (h : ∀ x, g x = thenSetChan k c y (f x)) :
    withChannel k' c' (s.setChan k c y) g = thenSetChan k c y (withChannel k' c' s f) := by
  unfold withChannel
  rw [State.chan?_setChan_ne hne]
  cases s.chan? k' c'
  · rfl
  · exact h _

theorem withModule_setChan {f g : PulseModule → Out} (h : ∀ m, g m = thenSetChan k c y (f m)) :
    withModule k' (s.setChan k c y) g = thenSetChan k c y (withModule k' s f) := by
  unfold withModule
  rw [State.setChan_cfg]
  cases s.cfg.pm[k']?
  · rfl
  · exact h _

theorem changeLine_setChan (w : Half) :
    changeLine k' c' w (s.setChan k c y) = thenSetChan k c y (changeLine k' c' w s) :=
  withModule_setChan fun _ => by split <;> rfl

/-- An operation on one channel does the same whether a write to another one is made before or after it. -/
theorem exec_setChan_of_ne {j : Instr} (hne : (k', c') ≠ (k, c)) (hj : IsChannelOp k' c' j) :
    exec j (s.setChan k c y) = thenSetChan k c y (exec j s) := by
  have comm (z : Channel) : (s.setChan k c y).setChan k' c' z = (s.setChan k' c' z).setChan k c y :=
    State.setChan_comm hne.symm
  cases hj with
  | rise => exact withChannel_setChan_of_ne hne fun x => congrArg Host.Outcome.next (comm _)
  | fall => exact withChannel_setChan_of_ne hne fun x => congrArg Host.Outcome.next (comm _)
  | poll =>
    refine withChannel_setChan_of_ne hne fun x => ?_
    rw [State.setChan_cfg]
    rcases x.poll s.cfg with ⟨x', _ | w⟩
    · rfl
    · exact congrArg (fun u => Host.Outcome.next (u.setResult (.poll (some w)))) (comm x')
  | updateChannel =>
    refine withChannel_setChan_of_ne hne fun x => ?_
    rw [State.setChan_cfg]
    rcases x.poll s.cfg with ⟨x', _ | w⟩
    · rfl
    · simp only [comm x']
      split
      · exact changeLine_setChan w
      · rfl
  | fullReport => exact withModule_setChan fun _ => withChannel_setChan_of_ne hne fun _ => rfl

/-- An operation on one channel leaves every other channel and the timer. -/
theorem exec_keeps_otherChannel {j : Instr} (hne : (k, c) ≠ (k', c')) (hj : IsChannelOp k' c' j)
    (h : exec j s = .next t) : t.chan? k c = s.chan? k c ∧ t.timer = s.timer := by
  have keeps (z : Channel) : (s.setChan k' c' z).chan? k c = s.chan? k c := State.chan?_setChan_ne hne
  cases hj with
  | rise =>
    obtain ⟨x, -, rfl⟩ := execRise_eq_next.1 h
    exact ⟨keeps _, rfl⟩
  | fall =>
    obtain ⟨x, -, rfl⟩ := execFall_eq_next.1 h
    exact ⟨keeps _, rfl⟩
  | poll =>
    obtain ⟨x, -, ⟨-, rfl⟩ | ⟨-, rfl⟩⟩ := execPoll_eq_next.1 h
    · exact ⟨rfl, rfl⟩
    · exact ⟨keeps _, rfl⟩
  | updateChannel =>
    obtain ⟨x, -, ⟨-, rfl⟩ | ⟨-, -, rfl⟩ | ⟨-, -, m, -, -, rfl⟩⟩ := observeChannel_eq_next.1 h
    · exact ⟨rfl, rfl⟩
    · exact ⟨keeps _, rfl⟩
    · exact ⟨keeps _, rfl⟩
  | fullReport =>
    obtain ⟨m, x, -, -, rfl⟩ := fullLine_eq_next.1 h
    exact ⟨rfl, rfl⟩

/-! ## Edges -/

/-- An edge writes its channel a value that depends on that channel and the timer only. -/
theorem exec_edge {i : Instr} (hi : i ∈ [Instr.rise k c, Instr.fall k c]) :
    ∃ stamp : Nat → Channel → Channel, ∀ (s : State) (x : Channel), s.chan? k c = some x →
      exec i s = .next (s.setChan k c (stamp s.timer x)) := by
  simp only [List.mem_cons, List.not_mem_nil, or_false] at hi
  obtain rfl | rfl := hi
  · exact ⟨Channel.stampRise, fun s x hx => execRise_eq_next.2 ⟨x, hx, rfl⟩⟩
  · exact ⟨Channel.stampFall, fun s x hx => execFall_eq_next.2 ⟨x, hx, rfl⟩⟩

/-! ## Two operations in either order -/

theorem execAll_singleton (i : Instr) : execAll [i] = exec i := by
  funext s
  simp only [execAll]
  cases exec i s <;> rfl

theorem execAll_pair (i j : Instr) (s : State) : execAll [i, j] s = andThen (exec i s) (exec j) :=
  congrArg (andThen (exec i s)) (execAll_singleton j)

/-- Settles O4: in either order the outcome is that of `j` with the edge's write made after it. -/
theorem edgesOfDifferentChannelsCommute : Obligations.EdgesOfDifferentChannelsCommute := by
  intro s k c k' c' x x' hne hx _ i hi j hj
  have hop : IsChannelOp k' c' j := by
    simp only [List.mem_cons, List.not_mem_nil, or_false] at hj
    obtain rfl | rfl | rfl | rfl | rfl := hj <;> constructor
  obtain ⟨stamp, edge⟩ := exec_edge hi
  have edge_last : andThen (exec j s) (exec i) = thenSetChan k c (stamp s.timer x) (exec j s) := by
    cases ho : exec j s with
    | next t =>
      obtain ⟨hc, ht⟩ := exec_keeps_otherChannel hne hop ho
      simp only [thenSetChan, andThen_next, edge t x (hc.trans hx), ht]
    | fault r => rfl
    | refused r => rfl
  calc execAll [i, j] s
      = exec j (s.setChan k c (stamp s.timer x)) := by rw [execAll_pair, edge s x hx, andThen_next]
    _ = thenSetChan k c (stamp s.timer x) (exec j s) := exec_setChan_of_ne hne.symm hop
    _ = execAll [j, i] s := by rw [execAll_pair, edge_last]

end Sys2Proof.Machine
end

section
/-! SUPPORT. No operation and no step writes the configuration (20_memory R63). -/

namespace Sys2Proof.Machine

variable {s t : State}

theorem observeChannel_keeps_cfg {k c : Nat} (h : observeChannel k c s = .next t) : t.cfg = s.cfg := by
  obtain ⟨x, -, ⟨-, rfl⟩ | ⟨-, -, rfl⟩ | ⟨-, -, m, -, -, rfl⟩⟩ := observeChannel_eq_next.1 h <;> rfl

theorem runHandler_keeps_cfg {h : Handler} {op : Byte} {p : List Byte} (hr : runHandler h op p s = .next t) :
    t.cfg = s.cfg := by
  obtain ⟨lines, ws, n, -, e⟩ := runHandler_cases h op p s
  cases e.symm.trans hr
  rfl

theorem exec_keeps_cfg {i : Instr} (h : exec i s = .next t) : t.cfg = s.cfg := by
  cases i
  case servoRaw b v => exact runHandler_keeps_cfg (h := .servoRaw) (p := [b, v]) h
  case servoHex b h3 h2 h1 h0 => exact runHandler_keeps_cfg (h := .servoHex) (p := [b, h3, h2, h1, h0]) h
  case unregistered b =>
    obtain e | ⟨rest, -, -, -, e⟩ := execUnregistered_cases b s <;> cases e.symm.trans h <;> rfl
  case changeReport k c w =>
    obtain ⟨m, -, -, rfl⟩ := changeLine_eq_next.1 h
    rfl
  case fullReport k c =>
    obtain ⟨m, x, -, -, rfl⟩ := fullLine_eq_next.1 h
    rfl
  case rise k c =>
    obtain ⟨x, -, rfl⟩ := execRise_eq_next.1 h
    rfl
  case fall k c =>
    obtain ⟨x, -, rfl⟩ := execFall_eq_next.1 h
    rfl
  case rxByte d => obtain ⟨-, e⟩ | ⟨-, e⟩ := execRxByte_cases d s <;> cases e.symm.trans h <;> rfl
  case opDispatch =>
    obtain ⟨-, e⟩ | ⟨b, rest, -, -, -, e⟩ | ⟨b, rest, n, e', -, -, -, e⟩ := execOpDispatch_cases s <;>
      cases e.symm.trans h <;> rfl
  case opUpdate k => obtain ⟨m, -, ⟨-, rfl⟩ | ⟨-, rfl⟩⟩ := execOpUpdate_eq_next.1 h <;> rfl
  case opReport k =>
    obtain ⟨lines, rfl⟩ := execOpReport_eq_next h
    rfl
  case payloadByte => obtain rfl | ⟨b, rest, e, -, -, -, rfl⟩ := execPayloadByte_eq_next h <;> rfl
  case frameTimeout => obtain ⟨-, e⟩ | ⟨-, e⟩ := execFrameTimeout_cases s <;> cases e.symm.trans h <;> rfl
  case dispatchExec =>
    obtain rfl | ⟨e, u, -, -, hu, rfl⟩ := execDispatchExec_eq_next h
    · rfl
    · have kept : u.cfg = s.cfg := runHandler_keeps_cfg hu
      exact kept
  case updateStep =>
    obtain rfl | ⟨k, c, u, m, -, hu, -, rfl⟩ := execUpdateStep_eq_next h
    · rfl
    · have kept : u.cfg = s.cfg := observeChannel_keeps_cfg hu
      exact kept
  case poll k c => obtain ⟨x, -, ⟨-, rfl⟩ | ⟨-, rfl⟩⟩ := execPoll_eq_next.1 h <;> rfl
  case updateChannel k c => exact observeChannel_keeps_cfg h
  case timerTick | reset | ackServoRaw | ackServoHex | txLine => cases h; rfl
  case hexdigit | hex2 | hex4 | hex8 | hexval | hexdec4 => cases h; rfl

/-- Settles O46: a step is an operation after a change of the pending signals (`step_eq_next`), and neither writes the
configuration. -/
theorem configurationIsNeverWritten : Obligations.ConfigurationIsNeverWritten := by
  refine ⟨fun i s t h => exec_keeps_cfg h, fun s t h => ?_⟩
  obtain rfl | ⟨p, rfl | ⟨i, hi⟩⟩ := step_eq_next h
  · rfl
  · rfl
  · exact exec_keeps_cfg (s := s.withPending p) hi

end Sys2Proof.Machine
end

section
/-! SUPPORT. The decoder and the encoder (30_encoding R70 to R83, R86): what `wf` says of the registration table, of the
letters and of the index bytes, and what each reader answers on the bytes the encoder writes. -/

namespace Sys2Proof

/-! ## The tables of a well-formed configuration -/

section Tables

variable {c : Config} (h : c.wf = true)
include h

theorem Config.letters_nodup : (c.pm.map (·.letter)).Nodup := by
  simp only [Config.wf, decide_eq_true_eq] at h
  obtain ⟨-, -, hletters, -⟩ := h
  exact hletters

theorem Config.opcodes_nodup : (c.reg.map (·.opcode)).Nodup := by
  simp only [Config.wf, decide_eq_true_eq] at h
  obtain ⟨-, -, -, -, -, -, hopcodes, -⟩ := h
  exact hopcodes

/-- Every index byte of a module fits in one byte (00_scope R7). -/
theorem Config.indexOffset_add_nch_le {m : PulseModule} (hm : m ∈ c.pm) : c.indexOffset + m.nch ≤ 256 := by
  simp only [Config.wf, decide_eq_true_eq] at h
  obtain ⟨-, -, -, hnch, -⟩ := h
  exact (hnch m hm).2

/-- Opcodes are distinct, so the lookup of an entry's opcode finds that entry. -/
theorem lookup_of_mem {e : RegEntry} (he : e ∈ c.reg) : ∃ n, lookup c e.opcode = some (n, e) := by
  cases hl : lookup c e.opcode with
  | none => exact absurd rfl (lookup_eq_none.1 hl e he)
  | some found =>
    obtain ⟨n, e'⟩ := found
    obtain ⟨hn, hop⟩ := lookup_eq_some hl
    obtain rfl : e' = e := List.inj_on_of_nodup_map (Config.opcodes_nodup h) (List.mem_of_getElem? hn) he hop
    exact ⟨n, rfl⟩

/-- The two servo rows of 30_encoding R82. -/
theorem Config.servoRows_mem :
    ⟨opServoRaw, 2, .servoRaw⟩ ∈ c.reg ∧ ⟨c.opServoHex, 5, .servoHex⟩ ∈ c.reg := by
  simp only [Config.wf, decide_eq_true_eq] at h
  obtain ⟨-, -, -, -, -, -, -, -, hraw, hhex, -⟩ := h
  exact ⟨hraw, hhex⟩

theorem lookup_opServoRaw : ∃ n, lookup c opServoRaw = some (n, ⟨opServoRaw, 2, .servoRaw⟩) :=
  lookup_of_mem h (Config.servoRows_mem h).1

theorem lookup_opServoHex : ∃ n, lookup c c.opServoHex = some (n, ⟨c.opServoHex, 5, .servoHex⟩) :=
  lookup_of_mem h (Config.servoRows_mem h).2

end Tables

theorem Config.hasChannel_iff {cfg : Config} {k c : Nat} :
    cfg.hasChannel k c = true ↔ ∃ m, cfg.pm[k]? = some m ∧ c < m.nch := by
  unfold Config.hasChannel
  cases cfg.pm[k]? <;> simp

theorem Config.letter_eq {cfg : Config} {k : Nat} {m : PulseModule} (hm : cfg.pm[k]? = some m) :
    cfg.letter k = m.letter := by
  simp [Config.letter, hm]

/-! ## Command frames -/

theorem exceptMap_pair_eq_ok {ε α β : Type} {x : Except ε α} {a : α} {b b' : β} :
    x.map (fun y => (y, b)) = .ok (a, b') ↔ x = .ok a ∧ b' = b := by
  cases x <;> simp [Except.map, eq_comm]

/-- A frame is read by its opcode alone (30_encoding R86): an unregistered byte is the whole frame, a registered one
is followed by as many bytes as its entry declares. -/
theorem decodeFrame_cons_eq_ok {c : Config} {op : Byte} {more rest : List Byte} {i : Instr} :
    decodeFrame c (op :: more) = .ok (i, rest) ↔
      (lookup c op = none ∧ i = .unregistered op ∧ rest = more) ∨
        (∃ n e, lookup c op = some (n, e) ∧ e.len ≤ more.length ∧
          frameInstr e.handler (more.take e.len) = .ok i ∧ rest = more.drop e.len) := by
  simp only [decodeFrame]
  cases lookup c op with
  | none => simp [eq_comm]
  | some found =>
    obtain ⟨n, e⟩ := found
    by_cases hlen : more.length < e.len
    · simp [hlen]
    · simp [hlen, Nat.le_of_not_lt, exceptMap_pair_eq_ok]

/-- A frame of the declared length is read whole. -/
theorem decode_frame_of_lookup {c : Config} {op : Byte} {payload : List Byte} {n : Nat} {e : RegEntry} {i : Instr}
    (hl : lookup c op = some (n, e)) (hlen : payload.length = e.len) (hi : frameInstr e.handler payload = .ok i) :
    decode c (.frame (op :: payload)) = .ok i := by
  have whole : decodeFrame c (op :: payload) = .ok (i, []) :=
    decodeFrame_cons_eq_ok.2 (.inr ⟨n, e, hl, hlen.ge, by simp [← hlen, hi], by simp [← hlen]⟩)
  simp [decode, whole]

theorem decode_frame_of_unregistered {c : Config} {b : Byte} (hb : isUnregistered c b = true) :
    decode c (.frame [b]) = .ok (.unregistered b) := by
  have hnone : lookup c b = none := lookup_eq_none.2 (isUnregistered_iff.1 hb)
  simp [decode, decodeFrame, hnone]

/-! ## Report lines -/

/-- Letters are distinct, so the search for a module's letter finds that module. -/
theorem findLetter_letter {ms : List PulseModule} {n k : Nat} {m : PulseModule} (hd : (ms.map (·.letter)).Nodup)
    (hm : ms[k]? = some m) : findLetter ms n m.letter = some (n + k, m) := by
  induction ms generalizing n k with
  | nil => simp at hm
  | cons x xs ih =>
    rw [List.map_cons, List.nodup_cons] at hd
    obtain ⟨hx, hxs⟩ := hd
    cases k with
    | zero =>
      obtain rfl : x = m := by simpa using hm
      simp [findLetter]
    | succ k =>
      rw [List.getElem?_cons_succ] at hm
      have hne : x.letter ≠ m.letter := fun e => hx (e ▸ List.mem_map_of_mem (List.mem_of_getElem? hm))
      simp [findLetter, hne, ih hxs hm, Nat.add_assoc, Nat.add_comm 1 k]

/-- The four digits of a value, joined again, are the value (43_report_encoder R176). -/
theorem joinNibbles_extract (w : Half) :
    joinNibbles ((w.extractLsb' 8 8).extractLsb' 4 4) ((w.extractLsb' 8 8).extractLsb' 0 4)
      ((w.extractLsb' 0 8).extractLsb' 4 4) ((w.extractLsb' 0 8).extractLsb' 0 4) = w := by
  apply BitVec.eq_of_toNat_eq
  have hw := w.isLt
  simp only [joinNibbles_toNat, BitVec.extractLsb'_toNat, Nat.shiftRight_eq_div_pow]
  omega

/-- `hex4` writes four digits that a line's reader joins to the value again. -/
theorem hex4_readable (w : Half) : ∃ a b c d, hex4 w = [a, b, c, d] ∧ lineValue a b c d = some w :=
  ⟨_, _, _, _, rfl, by simp only [lineValue, lineDigit_hexdigit, joinNibbles_extract]⟩

/-- The index byte of a channel that fits in a byte (20_memory R51). -/
theorem idxbyte_toNat {cfg : Config} {i : Nat} (h : cfg.indexOffset + i < 256) :
    (idxbyte cfg i).toNat = cfg.indexOffset + i := by
  simpa [idxbyte] using h

theorem idxOk_idxbyte {cfg : Config} {i n : Nat} (h : cfg.indexOffset + i < 256) (hi : i < n) :
    idxOk cfg (idxbyte cfg i) n = true := by
  simp [idxOk, idxbyte_toNat h, hi]

theorem unindex_idxbyte {cfg : Config} {i : Nat} (h : cfg.indexOffset + i < 256) :
    unindex cfg (idxbyte cfg i) = i := by
  simp [unindex, idxbyte_toNat h]

/-- A report line's bytes give back module, channel and value (30_encoding R78, R79). -/
theorem reportBytes_readable {cfg : Config} {k c : Nat} (kind : Byte) (w : Half) (hwf : cfg.wf = true)
    (hc : cfg.hasChannel k c = true) :
    ∃ m i a b d e, reportBytes cfg kind (cfg.letter k) c w = [kind, m, i, a, b, d, e] ∧
      readReport cfg m i a b d e = some (k, c, w) := by
  obtain ⟨m, hm, hlt⟩ := Config.hasChannel_iff.1 hc
  obtain ⟨a, b, d, e, hdigits, hvalue⟩ := hex4_readable w
  have hletter : findLetter cfg.pm 0 m.letter = some (k, m) := by
    simpa using findLetter_letter (n := 0) (Config.letters_nodup hwf) hm
  have hbyte : cfg.indexOffset + c < 256 := by
    have := Config.indexOffset_add_nch_le hwf (List.mem_of_getElem? hm)
    omega
  refine ⟨m.letter, idxbyte cfg c, a, b, d, e, by simp [reportBytes, Config.letter_eq hm, hdigits], ?_⟩
  simp [readReport, hletter, hvalue, idxOk_idxbyte hbyte hlt, unindex_idxbyte hbyte]

theorem decodeLine_changeReport {cfg : Config} {k c : Nat} (w : Half) (hwf : cfg.wf = true)
    (hc : cfg.hasChannel k c = true) :
    decodeLine cfg (reportBytes cfg kindChange (cfg.letter k) c w) = .ok (.changeReport k c w) := by
  obtain ⟨m, i, a, b, d, e, hbytes, hread⟩ := reportBytes_readable kindChange w hwf hc
  simp [hbytes, decodeLine, hread]

/-- The value a full report shows is no operand of it (log 20). -/
theorem decodeLine_fullReport {cfg : Config} {k c : Nat} (w : Half) (hwf : cfg.wf = true)
    (hc : cfg.hasChannel k c = true) :
    decodeLine cfg (reportBytes cfg kindFull (cfg.letter k) c w) = .ok (.fullReport k c) := by
  obtain ⟨m, i, a, b, d, e, hbytes, hread⟩ := reportBytes_readable kindFull w hwf hc
  have hkind : kindFull ≠ kindChange := by decide
  simp [hbytes, decodeLine, hread, hkind]

/-! ## Port strobes -/

@[simp] theorem strobe_one (i : Instr) : strobe 1 i = .ok i := rfl

/-- The receive port's strobe above its data is that byte (10_state R39). -/
theorem decodePort_rx (cfg : Config) (d : Byte) : decodePort cfg .rx (256 + d.toNat) = .ok (.rxByte d) := by
  have hd := d.isLt
  have hlow : ¬ 256 + d.toNat < 256 := by omega
  have hhigh : 256 + d.toNat < 512 := by omega
  have hbits : BitVec.ofNat 8 (256 + d.toNat) = d := BitVec.eq_of_toNat_eq (by rw [BitVec.toNat_ofNat]; omega)
  simp [decodePort, hlow, hhigh, hbits]

/-! ## Decode after encode -/

theorem decode_encode {cfg : Config} {held : Half} {i : Instr} {e : Encoding} (hwf : cfg.wf = true)
    (hi : i.wf cfg = true) (he : encode cfg held i = some e) : decode cfg e = .ok i := by
  cases i
  case poll | updateChannel | hexdigit | hex2 | hex4 | hex8 | hexval | hexdec4 | txLine => cases he
  all_goals cases he
  case servoRaw b val =>
    obtain ⟨n, hl⟩ := lookup_opServoRaw hwf
    exact decode_frame_of_lookup hl rfl rfl
  case servoHex b h3 h2 h1 h0 =>
    obtain ⟨n, hl⟩ := lookup_opServoHex hwf
    exact decode_frame_of_lookup hl rfl rfl
  case unregistered b => exact decode_frame_of_unregistered hi
  case changeReport k c w => exact decodeLine_changeReport w hwf hi
  case fullReport k c => exact decodeLine_fullReport held hwf hi
  case ackServoRaw b val => rfl
  case ackServoHex b h3 h2 h1 h0 => simp [decode, decodeLine]
  case rise k c | fall k c =>
    have hport : cfg.hasChannel k c = true := hi
    simp [decode, decodeSignal, decodePort, hport]
  case opUpdate k | opReport k =>
    have hport : cfg.hasModule k = true := hi
    simp [decode, decodeSignal, decodePort, hport]
  case rxByte d => exact decodePort_rx cfg d
  case timerTick | opDispatch | reset | payloadByte | frameTimeout | dispatchExec | updateStep => rfl

/-- Settles O55: `decode_encode`, and for the second part the encoder's answer for each constructor. -/
theorem decodeOfEncodeIsTheInstruction : Obligations.DecodeOfEncodeIsTheInstruction := by
  refine ⟨fun cfg held i e hwf hi he => decode_encode hwf hi he, fun cfg held i => ?_⟩
  cases i <;> simp [encode]

/-- Settles O56, from the two ways to read a frame (`decodeFrame_cons_eq_ok`). -/
theorem frameLengthIsLearntFromTheOpcode : Obligations.FrameLengthIsLearntFromTheOpcode := by
  intro cfg op more rest i h
  obtain ⟨hnone, -, rfl⟩ | ⟨n, e, hl, hlen, -, rfl⟩ := decodeFrame_cons_eq_ok.1 h
  · exact ⟨[], rfl, fun _ => rfl, fun n e hl => by simp [hnone] at hl⟩
  · refine ⟨more.take e.len, (List.take_append_drop ..).symm, fun hno => ?_, fun n' e' hl' => ?_⟩
    · simp [lookup_eq_none.2 hno] at hl
    · obtain ⟨-, rfl⟩ : n = n' ∧ e = e' := by simpa [hl] using hl'
      simpa using hlen

/-- Settles O57: each word is closed, and the decoder evaluates it. -/
theorem wordsOfTheSpecDecode : Obligations.WordsOfTheSpecDecode := by
  unfold Obligations.WordsOfTheSpecDecode
  decide

end Sys2Proof
end

section
/-! SUPPORT. The way of a received frame through the dispatcher (42_command_dispatcher R142, R144, R146): the state
after each byte of its payload, the block's own steps from one to the next, and the handler at the end. -/

namespace Sys2Proof.Machine

variable {s : State} {i : Nat} {e : RegEntry} {b : Byte} {got payload rest : List Byte}

/-! ## The opcode byte -/

theorem execUnregistered_of_head (hm : s.mstate = .idle) (hr : s.rxq = b :: rest) (hl : lookup s.cfg b = none) :
    execUnregistered b s = .next { s with rxq := rest } := by
  simp [execUnregistered, isUnregistered, State.rxPop, hm, hr, hl]

theorem execOpDispatch_of_unregistered (hm : s.mstate = .idle) (hr : s.rxq = b :: rest)
    (hl : lookup s.cfg b = none) : execOpDispatch s = .next { s with rxq := rest } := by
  simp [execOpDispatch, State.rxPop, hm, hr, hl]

theorem execOpDispatch_of_registered (hm : s.mstate = .idle) (hr : s.rxq = b :: rest)
    (hl : lookup s.cfg b = some (i, e)) : execOpDispatch s = .next (beginFrame i e { s with rxq := rest }) := by
  simp [execOpDispatch, State.rxPop, hm, hr, hl]

/-- Settles O18: UNREGISTERED and OP_DISPATCH both take that byte away. -/
theorem unregisteredByteIsDiscarded : Obligations.UnregisteredByteIsDiscarded := by
  intro s b rest hm hr hno
  have hl : lookup s.cfg b = none := lookup_eq_none.2 hno
  have discard := execUnregistered_of_head hm hr hl
  exact ⟨discard, (execOpDispatch_of_unregistered hm hr hl).trans discard.symm⟩

/-! ## The payload bytes -/

/-- The state with the bytes `got` of the payload of entry `e` at position `i` collected, the frame having begun in
`s`: what OP_DISPATCH and `got.length` PAYLOAD_BYTEs leave. -/
def collecting (s : State) (i : Nat) (e : RegEntry) (got rest : List Byte) : State :=
  { s with
    rxq := rest
    cur := i
    cnt := got.length
    buf := got ++ s.buf.drop got.length
    frameT0 := s.timer
    dstate := if got.length = e.len then .dispatching else .awaitingPayload
    mstate := .inDispatch }

theorem beginFrame_eq_collecting : beginFrame i e { s with rxq := rest } = collecting s i e [] rest := by
  simp [beginFrame, collecting, @eq_comm Nat 0]

theorem collecting_eq_collected (hlen : payload.length = e.len) :
    collecting s i e payload rest = collected s i e payload rest := by
  simp [collecting, collected, hlen]

/-- The next payload byte goes behind the ones collected. -/
theorem set_next_payloadByte {buf : List Byte} (h : got.length < buf.length) :
    (got ++ buf.drop got.length).set got.length b = (got ++ [b]) ++ buf.drop (got ++ [b]).length := by
  simp only [List.set_append_right _ _ le_rfl, Nat.sub_self, List.drop_eq_getElem_cons h, List.set_cons_zero]
  simp

theorem execPayloadByte_collecting (he : s.cfg.reg[i]? = some e) (hlen : got.length < e.len)
    (hbuf : e.len ≤ s.buf.length) :
    execPayloadByte (collecting s i e got (b :: rest)) = .next (collecting s i e (got ++ [b]) rest) := by
  have hstore := set_next_payloadByte (b := b) (hlen.trans_le hbuf)
  simp only [List.length_append, List.length_singleton] at hstore
  simp [execPayloadByte, collecting, State.rxPop, withEntry, he, hlen.ne, hstore]

theorem enabledMicro_collecting (hlen : got.length < e.len) :
    (collecting s i e got (b :: rest)).enabledMicro = some .payloadByte := by
  simp [State.enabledMicro, collecting, hlen.ne]

/-! ## The handler -/

/-- A handler neither sees nor writes the receive registers. -/
theorem runHandler_collected (h : Handler) (op : Byte) (p : List Byte) :
    runHandler h op p (collected s i e payload rest) =
      andThen (runHandler h op p s) fun u => .next (collected u i e payload rest) := by
  have hcfg : (collected s i e payload rest).cfg = s.cfg := rfl
  unfold runHandler
  split
  · unfold servoRawHandler
    rw [hcfg]
    split <;> rfl
  · unfold servoHexHandler
    rw [hcfg]
    split
    · split <;> rfl
    · rfl
  · rfl
  · rfl

theorem execDispatchExec_collected (he : s.cfg.reg[i]? = some e) (hlen : payload.length = e.len) :
    execDispatchExec (collected s i e payload rest) =
      andThen (runHandler e.handler e.opcode payload s) fun u =>
        .next ((collected u i e payload rest).setMain .awaitingOpcode .idle) := by
  have hentry : (collected s i e payload rest).cfg.reg[(collected s i e payload rest).cur]? = some e := he
  have hpayload : (collected s i e payload rest).payload e = payload := by
    simp [State.payload, collected, ← hlen]
  simp only [execDispatchExec, withEntry_some hentry, hpayload, runHandler_collected]
  cases runHandler e.handler e.opcode payload s <;> rfl

/-! ## The block's own steps -/

theorem run_succ_of_step {t : State} (k : Nat) (h : step s = .next t) :
    Host.Core.run Sys2Proof.core (k + 1) s = Host.Core.run Sys2Proof.core k t := by
  simp only [Host.Core.run, Sys2Proof.core, h]

theorem step_of_enabledMicro {m : MicroStep} (hwf : s.cfg.wf = true) (hp : s.pending = [])
    (hm : s.enabledMicro = some m) : step s = exec m.instr s :=
  step_of_decoded hwf (State.fetch_of_enabledMicro hp hm) rfl

/-- With the payload queued and nothing pending, the block's steps collect it byte by byte. -/
theorem run_collecting (k : Nat) (hwf : s.cfg.wf = true) (hp : s.pending = []) (he : s.cfg.reg[i]? = some e)
    (hbuf : e.len ≤ s.buf.length) (hlen : got.length + payload.length = e.len) :
    Host.Core.run Sys2Proof.core (payload.length + k) (collecting s i e got (payload ++ rest)) =
      Host.Core.run Sys2Proof.core k (collecting s i e (got ++ payload) rest) := by
  induction payload generalizing got with
  | nil => simp
  | cons b bs ih =>
    rw [List.length_cons] at hlen
    have hlt : got.length < e.len := by omega
    have hstep : step (collecting s i e got (b :: (bs ++ rest))) =
        .next (collecting s i e (got ++ [b]) (bs ++ rest)) := by
      rw [← execPayloadByte_collecting he hlt hbuf]
      exact step_of_enabledMicro (s := collecting s i e got _) hwf hp (enabledMicro_collecting hlt)
    have hrest := ih (got := got ++ [b]) (by simp only [List.length_append, List.length_singleton]; omega)
    rw [List.append_assoc, List.singleton_append] at hrest
    rw [List.length_cons, Nat.add_right_comm, List.cons_append, run_succ_of_step _ hstep, hrest]

/-- A dispatch request to the idle block with a whole frame queued: after `e.len + 1` steps the frame stands collected
(42_command_dispatcher R142, R144). -/
theorem run_reqDispatch {o : Byte} (k : Nat) (hs : s.Inv) (hm : s.mstate = .idle)
    (hl : lookup s.cfg o = some (i, e)) (hr : s.rxq = o :: (payload ++ rest)) (hlen : payload.length = e.len) :
    Host.Core.run Sys2Proof.core (e.len + k + 1) (s.withPending [.port .reqDispatch 1]) =
      Host.Core.run Sys2Proof.core k (collected (s.withPending []) i e payload rest) := by
  obtain ⟨he, -⟩ := lookup_eq_some hl
  obtain ⟨-, -, hbuf, -⟩ := hs.frame
  have hfits : e.len ≤ s.buf.length := hbuf ▸ Config.len_le_maxLen (List.mem_of_getElem? he)
  have hstep : step (s.withPending [.port .reqDispatch 1]) =
      .next (collecting (s.withPending []) i e [] (payload ++ rest)) := by
    rw [← beginFrame_eq_collecting, ← execOpDispatch_of_registered (s := s.withPending []) hm hr hl]
    exact step_of_decoded (s := s.withPending _) (i := .opDispatch) hs.config (State.fetch_of_pending_cons rfl) rfl
  rw [run_succ_of_step _ hstep, ← hlen,
    run_collecting (s := s.withPending []) k hs.config rfl he hfits (by simpa using hlen), List.nil_append,
    collecting_eq_collected hlen]

/-- The step after the payload is complete runs the entry's handler (42_command_dispatcher R146). -/
theorem step_collected (hwf : s.cfg.wf = true) (hp : s.pending = []) (he : s.cfg.reg[i]? = some e)
    (hlen : payload.length = e.len) :
    step (collected s i e payload rest) =
      andThen (runHandler e.handler e.opcode payload s) fun u =>
        .next ((collected u i e payload rest).setMain .awaitingOpcode .idle) := by
  rw [← execDispatchExec_collected he hlen]
  exact step_of_enabledMicro (s := collected s i e payload rest) hwf hp rfl

/-! ## The command frames of the block -/

/-- An encoded command frame is the opcode and the payload of an entry of REG, and its instruction is that entry's
handler on that payload (30_encoding R72, R73, log 8). -/
theorem encode_frame_routes {cfg : Config} {held : Half} {j : Instr} {bytes : List Byte} (hwf : cfg.wf = true)
    (hj : encode cfg held j = some (.frame bytes)) (hlong : 2 ≤ bytes.length) :
    ∃ o payload i e, bytes = o :: payload ∧ lookup cfg o = some (i, e) ∧ payload.length = e.len ∧
      ∀ s : State, s.cfg = cfg → exec j s = runHandler e.handler o payload s := by
  cases j <;> cases hj
  case servoRaw b val =>
    obtain ⟨i, hl⟩ := lookup_opServoRaw hwf
    exact ⟨_, _, i, _, rfl, hl, rfl, fun _ _ => rfl⟩
  case servoHex b h3 h2 h1 h0 =>
    obtain ⟨i, hl⟩ := lookup_opServoHex hwf
    exact ⟨_, _, i, _, rfl, hl, rfl, fun s hs => by subst hs; rfl⟩
  case unregistered b => simp at hlong

/-- Settles O26: the block's steps collect the frame (`run_reqDispatch`), the last one runs its handler
(`step_collected`), and the handler is the instruction (`encode_frame_routes`). -/
theorem receivedFrameRunsItsInstruction : Obligations.ReceivedFrameRunsItsInstruction := by
  intro s j held bytes rest hs hm _ hj hlong hr
  obtain ⟨o, payload, i, e, rfl, hl, hlen, hexec⟩ := encode_frame_routes hs.config hj hlong
  obtain ⟨he, hop⟩ := lookup_eq_some hl
  obtain ⟨lines, ws, n, -, hrun⟩ := runHandler_cases e.handler o payload s
  have hd : s.dstate = .awaitingOpcode := hs.dstate_eq_awaitingOpcode (by simp [hm])
  have hstep := step_collected (s := s.withPending []) (rest := rest) hs.config rfl he hlen
  rw [hop, runHandler_withPending, hrun, withPending_next, andThen_next] at hstep
  have hframe := (run_reqDispatch 1 hs hm hl hr hlen).trans (run_succ_of_step 0 hstep)
  rw [← hlen] at hframe
  refine ⟨_, _, hframe, (hexec s rfl).trans hrun, ?_⟩
  simp only [hm, hd]
  rfl

end Sys2Proof.Machine
end

section
/-! SUPPORT. The counter at its last value, the strobes of the edge detectors, and the write of one channel with its
frame (40_edge_timer R100, R102, R103). -/

namespace Sys2Proof.Machine

variable {s : State} {k c : Nat} {x y : Channel} {cfg : Config}

/-! ## The counter -/

/-- The counter wraps from its last value to 0 (R100). -/
theorem incWrap_last (tsw : Nat) : incWrap tsw (2 ^ tsw - 1) = 0 := by
  unfold incWrap
  rw [Nat.sub_add_cancel Nat.one_le_two_pow, Nat.mod_self]

/-- Settles O1: the next value is `incWrap`, which `incWrap_last` evaluates at the last one. -/
theorem timerTickAddsOneAndWraps : Obligations.TimerTickAddsOneAndWraps := by
  intro s
  refine ⟨rfl, incWrap s.cfg.tsw s.timer, rfl, rfl, fun hlast => ?_⟩
  rw [hlast, incWrap_last]

/-! ## The strobes of a channel -/

theorem decodeSignal_edgeRise (h : cfg.hasChannel k c = true) :
    decodeSignal cfg (.port (.edgeRise k c) 1) = .ok (.rise k c) := by
  simp [decodeSignal, decodePort, h]

theorem decodeSignal_edgeFall (h : cfg.hasChannel k c = true) :
    decodeSignal cfg (.port (.edgeFall k c) 1) = .ok (.fall k c) := by
  simp [decodeSignal, decodePort, h]

/-! ## The write of one channel -/

/-- Writing a channel that exists changes what is read there and nothing else. -/
theorem State.setChan_writes_only (hx : s.chan? k c = some x) :
    (s.setChan k c y).chan? k c = some y ∧ OtherChannelsSame k c s (s.setChan k c y) ∧
      s.setChan k c y = { s with ch := (s.setChan k c y).ch } :=
  ⟨State.chan?_setChan_self hx, fun _ _ hne => State.chan?_setChan_ne hne, rfl⟩

/-- Settles O2: RISE writes `stampRise` to its channel (`execRise_eq_next`), and that write is all. -/
theorem riseStampsRisingAndClearsFlag : Obligations.RiseStampsRisingAndClearsFlag := by
  intro s k c x hx
  have hrise : exec (.rise k c) s = .next (s.setChan k c (x.stampRise s.timer)) := execRise_eq_next.2 ⟨x, hx, rfl⟩
  exact ⟨decodeSignal_edgeRise, _, hrise, State.setChan_writes_only hx⟩

/-- Settles O3: FALL writes `stampFall` to its channel (`execFall_eq_next`), and that write is all. -/
theorem fallStampsFallingAndSetsFlag : Obligations.FallStampsFallingAndSetsFlag := by
  intro s k c x hx
  have hfall : exec (.fall k c) s = .next (s.setChan k c (x.stampFall s.timer)) := execFall_eq_next.2 ⟨x, hx, rfl⟩
  exact ⟨decodeSignal_edgeFall, _, hfall, State.setChan_writes_only hx⟩

end Sys2Proof.Machine
end

section
/-! SUPPORT. What a poll answers and leaves (41_pulse_channel R120 to R124): the wrapped difference in the spec's own
words, the width it gives, and the two ways a poll ends, each as one equation. -/

namespace Sys2Proof.Machine

variable {s t : State} {k c : Nat} {x y : Channel} {cfg : Config} {tsw : Nat}

/-! ## The wrapped difference -/

/-- The difference of two TSW-bit stamps is the one of 41_pulse_channel R121. -/
theorem subWrap_eq_stampDiff {f r : Nat} (hf : f < 2 ^ tsw) (hr : r < 2 ^ tsw) :
    subWrap tsw f r = stampDiff tsw f r := by
  rw [subWrap_eq, Nat.mod_eq_of_lt hf, Nat.mod_eq_of_lt hr]
  unfold stampDiff
  split
  · next hle =>
    have wraps : 2 ^ tsw - r + f = f - r + 2 ^ tsw := by omega
    rw [wraps, Nat.add_mod_right, Nat.mod_eq_of_lt (by omega)]
  · next hgt =>
    rw [Nat.mod_eq_of_lt (by omega)]
    omega

/-- No plausible difference has more than 16 bits (00_scope R7). -/
theorem Config.widthMax_lt (h : cfg.wf = true) : cfg.widthMax < 2 ^ 16 := by
  simp only [Config.wf, decide_eq_true_eq] at h
  obtain ⟨-, -, -, -, hmax, -⟩ := h
  omega

/-! ## The width -/

theorem Channel.width_eq_ite (cfg : Config) (x : Channel) :
    x.width cfg = if subWrap cfg.tsw x.falling x.rising ≤ cfg.widthMax
      then BitVec.ofNat 16 (subWrap cfg.tsw x.falling x.rising) else x.lastWidth := by
  simp only [Channel.width, plausible, lowHalf, decide_eq_true_eq]

theorem Channel.width_of_plausible (hr : x.rising < 2 ^ cfg.tsw) (hf : x.falling < 2 ^ cfg.tsw)
    (h : stampDiff cfg.tsw x.falling x.rising ≤ cfg.widthMax) :
    x.width cfg = BitVec.ofNat 16 (stampDiff cfg.tsw x.falling x.rising) := by
  rw [Channel.width_eq_ite, subWrap_eq_stampDiff hf hr, if_pos h]

theorem Channel.width_of_implausible (hr : x.rising < 2 ^ cfg.tsw) (hf : x.falling < 2 ^ cfg.tsw)
    (h : cfg.widthMax < stampDiff cfg.tsw x.falling x.rising) : x.width cfg = x.lastWidth := by
  rw [Channel.width_eq_ite, subWrap_eq_stampDiff hf hr, if_neg (Nat.not_le.2 h)]

/-! ## The poll -/

theorem execPoll_of_noSample (hx : s.chan? k c = some x) (hn : x.hasNew = false) :
    execPoll k c s = .next (s.setResult (.poll none)) :=
  execPoll_eq_next.2 ⟨x, hx, .inl ⟨hn, rfl⟩⟩

theorem execPoll_of_sample (hx : s.chan? k c = some x) (hn : x.hasNew = true) :
    execPoll k c s = .next ((s.setChan k c { x with hasNew := false, lastWidth := x.width s.cfg }).setResult
      (.poll (some (x.width s.cfg)))) :=
  execPoll_eq_next.2 ⟨x, hx, .inr ⟨hn, rfl⟩⟩

/-- A poll leaves no sample behind (R124). -/
theorem execPoll_clears_hasNew (h : execPoll k c s = .next t) :
    ∃ y, t.chan? k c = some y ∧ y.hasNew = false := by
  obtain ⟨x, hx, ⟨hn, rfl⟩ | ⟨-, rfl⟩⟩ := execPoll_eq_next.1 h
  · exact ⟨x, hx, hn⟩
  · exact ⟨_, State.chan?_setChan_self hx, rfl⟩

/-- Settles O6: the two ways a poll ends; with a sample, `Channel.width` at the plausibility boundary. -/
theorem pollConsumesTheSampleAndReturnsItsWidth : Obligations.PollConsumesTheSampleAndReturnsItsWidth := by
  refine fun s k c x hx => ⟨execPoll_of_noSample hx, fun hn hr hf => ?_⟩
  obtain ⟨hself, hothers, -⟩ :=
    State.setChan_writes_only (y := { x with hasNew := false, lastWidth := x.width s.cfg }) hx
  exact ⟨_, x.width s.cfg, Channel.width_of_plausible hr hf, Channel.width_of_implausible hr hf,
    execPoll_of_sample hx hn, hself, hothers, rfl⟩

/-- Settles O7: the width stored is the difference in 16 bits, and WIDTH_MAX leaves it no more (R122). -/
theorem plausibleWidthEqualsTheDifference : Obligations.PlausibleWidthEqualsTheDifference := by
  intro s t k c x y hwf hx hn hr hf hd h hy
  cases (execPoll_of_sample hx hn).symm.trans h
  cases (State.chan?_setChan_self hx).symm.trans hy
  have hfits := hd.trans_lt (Config.widthMax_lt hwf)
  simp only [Channel.width_of_plausible hr hf hd, BitVec.toNat_ofNat, Nat.mod_eq_of_lt hfits]

/-- Settles O8: the first poll clears the flag (`execPoll_clears_hasNew`), and a RISE keeps it clear. -/
theorem secondPollReturnsNone : Obligations.SecondPollReturnsNone := by
  intro s t k c hpoll
  obtain ⟨y, hy, hn⟩ := execPoll_clears_hasNew hpoll
  refine ⟨execPoll_of_noSample hy hn, fun u hrise => ?_⟩
  obtain ⟨z, hz, rfl⟩ := execRise_eq_next.1 hrise
  exact execPoll_of_noSample (State.chan?_setChan_self hz) (z.stampRise_hasNew _)

end Sys2Proof.Machine
end

section
/-! SUPPORT. The samples of a run (41_pulse_channel R125): what each operation of the run does to one channel's flag,
and how it counts on both sides. -/

namespace Sys2Proof.Machine

variable {s t : State} {k c : Nat} {x y : Channel} {i : Instr} {is : List Instr}

/-! ## The operations of a run -/

/-- A state of the configuration's shape has every channel of the configuration (10_state R24). -/
theorem State.ShapeOk.exists_chan? (hs : s.ShapeOk) (h : s.cfg.hasChannel k c = true) :
    ∃ x, s.chan? k c = some x := by
  obtain ⟨hlen, hrow⟩ := hs
  obtain ⟨m, hm, hc⟩ := Config.hasChannel_iff.1 h
  have hk : k < s.ch.length := hlen ▸ (List.getElem?_eq_some_iff.1 hm).1
  have hrowk := List.getElem?_eq_getElem hk
  have hc' : c < s.ch[k].length := (hrow k m _ hm hrowk).symm ▸ hc
  exact ⟨_, State.chan?_eq_some.2 ⟨_, hrowk, List.getElem?_eq_getElem hc'⟩⟩

/-- Every operation of such a run answers a state of the same shape. -/
theorem exec_sampleOp (hs : s.ShapeOk) (hop : sampleOp i = true) (hwf : i.wf s.cfg = true) :
    ∃ t, exec i s = .next t ∧ t.ShapeOk := by
  cases i <;> cases hop
  case timerTick => exact ⟨_, rfl, hs⟩
  case rise k c =>
    obtain ⟨x, hx⟩ := hs.exists_chan? hwf
    exact ⟨_, execRise_eq_next.2 ⟨x, hx, rfl⟩, hs.setChan⟩
  case fall k c =>
    obtain ⟨x, hx⟩ := hs.exists_chan? hwf
    exact ⟨_, execFall_eq_next.2 ⟨x, hx, rfl⟩, hs.setChan⟩
  case rxByte d =>
    obtain ⟨-, e⟩ | ⟨-, e⟩ := execRxByte_cases d s <;> exact ⟨_, e, hs⟩
  case poll k c =>
    obtain ⟨x, hx⟩ := hs.exists_chan? hwf
    cases hn : x.hasNew
    · exact ⟨_, execPoll_of_noSample hx hn, hs⟩
    · exact ⟨_, execPoll_of_sample hx hn, hs.setChan⟩

/-- It writes a channel only as a RISE, a FALL or a POLL of that channel. -/
theorem exec_sampleOp_keeps_channel (hop : sampleOp i = true) (h : exec i s = .next t)
    (hr : i ≠ .rise k c) (hf : i ≠ .fall k c) (hp : i ≠ .poll k c) : t.chan? k c = s.chan? k c := by
  cases i <;> cases hop
  case timerTick => cases h; rfl
  case rxByte d => obtain ⟨-, e⟩ | ⟨-, e⟩ := execRxByte_cases d s <;> cases e.symm.trans h <;> rfl
  case rise k' c' => exact (exec_keeps_otherChannel (by rintro ⟨⟩; exact hr rfl) .rise h).1
  case fall k' c' => exact (exec_keeps_otherChannel (by rintro ⟨⟩; exact hf rfl) .fall h).1
  case poll k' c' => exact (exec_keeps_otherChannel (by rintro ⟨⟩; exact hp rfl) .poll h).1

/-! ## The count of the `Some` results -/

theorem somesOf_cons_poll {w : Option Half} (h : exec (.poll k c) s = .next t) (hw : t.result = .poll w) :
    somesOf k c (.poll k c :: is) s = (if w.isSome then 1 else 0) + somesOf k c is t := by
  simp only [somesOf, h, hw]
  cases w <;> simp

theorem somesOf_cons_of_ne_poll (h : exec i s = .next t) (hi : i ≠ .poll k c) :
    somesOf k c (i :: is) s = somesOf k c is t := by
  simp only [somesOf, h, Nat.add_eq_right]
  split
  · exact if_neg (by rintro ⟨⟩; exact hi rfl)
  · rfl

/-- A poll returns `Some` exactly when a sample waits. -/
theorem somesOf_cons_poll_of_chan (hx : s.chan? k c = some x) (h : exec (.poll k c) s = .next t) :
    somesOf k c (.poll k c :: is) s = (if x.hasNew then 1 else 0) + somesOf k c is t := by
  cases hn : x.hasNew
  · cases (execPoll_of_noSample hx hn).symm.trans h
    exact somesOf_cons_poll h rfl
  · cases (execPoll_of_sample hx hn).symm.trans h
    exact somesOf_cons_poll h rfl

/-! ## The count of the FALLs polled in time -/

theorem fallsPolled_cons_of_ne_fall (h : i ≠ .fall k c) : fallsPolled k c (i :: is) = fallsPolled k c is := by
  simp [fallsPolled, h]

theorem fallsPolled_cons_fall :
    fallsPolled k c (.fall k c :: is) = (if pollComesFirst k c is then 1 else 0) + fallsPolled k c is := by
  simp [fallsPolled]

theorem pollComesFirst_cons_poll : pollComesFirst k c (.poll k c :: is) = true := by simp [pollComesFirst]

theorem pollComesFirst_cons_rise : pollComesFirst k c (.rise k c :: is) = false := by simp [pollComesFirst]

theorem pollComesFirst_cons_fall : pollComesFirst k c (.fall k c :: is) = false := by simp [pollComesFirst]

theorem pollComesFirst_cons_of_ne (hr : i ≠ .rise k c) (hf : i ≠ .fall k c) (hp : i ≠ .poll k c) :
    pollComesFirst k c (i :: is) = pollComesFirst k c is := by
  simp [pollComesFirst, hr, hf, hp]

/-- Settles O9, by induction on the run: its first operation is a RISE, a FALL or a POLL of the channel, or it leaves
the channel as it is. -/
theorem samplesReturnedAreTheFallsPolledInTime : Obligations.SamplesReturnedAreTheFallsPolledInTime := by
  intro is s k c x hs hx hrun
  induction is generalizing s x with
  | nil => simp [somesOf, fallsPolled, pollComesFirst]
  | cons i is ih =>
    obtain ⟨⟨hop, hwf⟩, htail⟩ := List.forall_mem_cons.1 hrun
    obtain ⟨t, ht, hst⟩ := exec_sampleOp hs hop hwf
    rw [← exec_keeps_cfg ht] at htail
    have rest {y : Channel} (hy : t.chan? k c = some y) := ih t y hst hy htail
    by_cases hr : i = .rise k c
    · subst hr
      obtain ⟨z, hz, rfl⟩ := execRise_eq_next.1 ht
      rw [somesOf_cons_of_ne_poll ht (by simp), rest (State.chan?_setChan_self hz),
        fallsPolled_cons_of_ne_fall (by simp), pollComesFirst_cons_rise]
      simp
    by_cases hf : i = .fall k c
    · subst hf
      obtain ⟨z, hz, rfl⟩ := execFall_eq_next.1 ht
      rw [somesOf_cons_of_ne_poll ht (by simp), rest (State.chan?_setChan_self hz),
        fallsPolled_cons_fall, pollComesFirst_cons_fall]
      simp [Nat.add_comm]
    by_cases hp : i = .poll k c
    · subst hp
      obtain ⟨y, hy, hn⟩ := execPoll_clears_hasNew ht
      rw [somesOf_cons_poll_of_chan hx ht, rest hy, hn, fallsPolled_cons_of_ne_fall (by simp),
        pollComesFirst_cons_poll]
      simp [Nat.add_comm]
    · have kept := exec_sampleOp_keeps_channel hop ht hr hf hp
      rw [somesOf_cons_of_ne_poll ht hp, rest (kept.trans hx), fallsPolled_cons_of_ne_fall hf,
        pollComesFirst_cons_of_ne hr hf hp]

end Sys2Proof.Machine
end

section
/-! SUPPORT. The width of a pulse in ticks (41_pulse_channel R121; 40_edge_timer R100, R101): a run of ticks, and the
wrapped difference across it. -/

namespace Sys2Proof.Machine

variable {s : State} {k c : Nat} {x : Channel}

theorem execAll_append (is js : List Instr) (s : State) :
    execAll (is ++ js) s = andThen (execAll is s) (execAll js) := by
  induction is generalizing s with
  | nil => rfl
  | cons i is ih =>
    simp only [List.cons_append, execAll]
    cases exec i s with
    | next t => exact ih t
    | fault r => rfl
    | refused r => rfl

theorem execAll_timerTicks (n : Nat) (ht : s.timer < 2 ^ s.cfg.tsw) :
    execAll (List.replicate n .timerTick) s = .next { s with timer := (s.timer + n) % 2 ^ s.cfg.tsw } := by
  induction n generalizing s with
  | zero => simp [execAll, Nat.mod_eq_of_lt ht]
  | succ n ih =>
    rw [List.replicate_succ, execAll, exec_timerTick, execTimerTick, andThen_next, ih (incWrap_lt ..)]
    simp [incWrap, Nat.add_assoc, Nat.add_comm 1 n]

/-- `n` ticks after `t0` the difference to `t0` is `n`, the timer's wraps and aliases aside (70_reset_and_hazards
R267). -/
theorem subWrap_ticks (tsw t0 n : Nat) : subWrap tsw ((t0 + n) % 2 ^ tsw) t0 = n % 2 ^ tsw := by
  have stamp : BitVec.ofNat tsw ((t0 + n) % 2 ^ tsw) = BitVec.ofNat tsw n + BitVec.ofNat tsw t0 := by
    apply BitVec.eq_of_toNat_eq
    simp [Nat.add_comm]
  rw [subWrap, stamp, BitVec.add_sub_cancel, BitVec.toNat_ofNat]

/-- FALL, then POLL: the FALL leaves a sample, so the poll returns its width. -/
theorem execAll_fall_poll (hx : s.chan? k c = some x) :
    ∃ t, execAll [.fall k c, .poll k c] s = .next t ∧
      t.result = .poll (some ((x.stampFall s.timer).width s.cfg)) := by
  have hfall : exec (.fall k c) s = .next (s.setChan k c (x.stampFall s.timer)) := execFall_eq_next.2 ⟨x, hx, rfl⟩
  have hpoll := execPoll_of_sample (State.chan?_setChan_self hx) (x.stampFall_hasNew s.timer)
  exact ⟨_, by rw [execAll_pair, hfall, andThen_next, exec_poll, hpoll], rfl⟩

/-- Settles O10: RISE stamps the timer, the ticks move it on (`execAll_timerTicks`), FALL stamps it again, and POLL
takes the difference (`subWrap_ticks`). -/
theorem pulseWidthIsTheTicksBetweenTheEdges : Obligations.PulseWidthIsTheTicksBetweenTheEdges := by
  intro s k c n x hx ht
  have hrise : exec (.rise k c) s = .next (s.setChan k c (x.stampRise s.timer)) := execRise_eq_next.2 ⟨x, hx, rfl⟩
  have hticks := execAll_timerTicks (s := s.setChan k c (x.stampRise s.timer)) n ht
  have hchan := State.chan?_setChan_self (y := x.stampRise s.timer) hx
  obtain ⟨t, hlast, hresult⟩ := execAll_fall_poll
    (s := { s.setChan k c (x.stampRise s.timer) with timer := (s.timer + n) % 2 ^ s.cfg.tsw }) hchan
  refine ⟨t, ?run, ?width⟩
  case run =>
    rw [execAll_append, execAll_append, execAll_singleton, hrise, andThen_next, hticks, andThen_next]
    exact hlast
  case width =>
    rw [hresult, Channel.width_eq_ite]
    simp [subWrap_ticks]

end Sys2Proof.Machine
end

section
/-! SUPPORT. When the dispatcher's operations happen and when they do not (42_command_dispatcher R141 to R147): the
enabling conditions in the spec's own words, the enabled micro-step of each kind of state, and the operations whose
condition is false. -/

namespace Sys2Proof.Machine

variable {s t : State} {k c : Nat} {b : Byte} {rest : List Byte} {e : RegEntry} {cfg : Config}

/-! ## The receive port -/

theorem State.rxReady_iff : s.rxReady = true ↔ ∀ d, s.cfg.rxqDepth = some d → s.rxq.length < d := by
  unfold State.rxReady
  cases s.cfg.rxqDepth <;> simp

/-- Settles O16: the port carries the byte (`decodePort_rx`), and `rx_ready` decides between the two ways of
`execRxByte_cases`. -/
theorem rxByteAppendsToTheReceiveQueue : Obligations.RxByteAppendsToTheReceiveQueue := by
  refine fun s b => ⟨decodePort_rx s.cfg b, fun room => ?taken, fun t d hd h hne => ?onlyWithRoom⟩ <;>
    rcases execRxByte_cases b s with ⟨ready, hexec⟩ | ⟨full, hexec⟩
  case taken.inl => exact hexec
  case taken.inr => exact absurd (State.rxReady_iff.2 room) (by simp [full])
  case onlyWithRoom.inl => exact State.rxReady_iff.1 ready d hd
  case onlyWithRoom.inr =>
    cases hexec.symm.trans h
    exact absurd rfl hne

/-! ## The deadline of a starved frame -/

theorem deadlinePassed_iff {timer t0 : Nat} :
    deadlinePassed cfg timer t0 = true ↔
      ∃ limit, cfg.payloadTimeout = some limit ∧ limit ≤ subWrap cfg.tsw timer t0 := by
  unfold deadlinePassed
  cases cfg.payloadTimeout <;> simp

theorem State.timeoutEnabled_iff_deadlinePassed :
    s.timeoutEnabled = true ↔
      s.dstate = .awaitingPayload ∧ s.rxq = [] ∧ deadlinePassed s.cfg s.timer s.frameT0 = true := by
  simp [State.timeoutEnabled, and_assoc]

/-- The four conditions of FRAME_TIMEOUT (R145), for stamps of TSW bits. -/
theorem State.timeoutEnabled_iff (ht : s.timer < 2 ^ s.cfg.tsw) (h0 : s.frameT0 < 2 ^ s.cfg.tsw) :
    s.timeoutEnabled = true ↔ s.dstate = .awaitingPayload ∧ s.rxq = [] ∧
      ∃ limit, s.cfg.payloadTimeout = some limit ∧ limit ≤ stampDiff s.cfg.tsw s.timer s.frameT0 := by
  rw [State.timeoutEnabled_iff_deadlinePassed, deadlinePassed_iff, subWrap_eq_stampDiff ht h0]

theorem execFrameTimeout_of_enabled (h : s.timeoutEnabled = true) :
    execFrameTimeout s = .next (s.setMain .awaitingOpcode .idle) := by
  simp [execFrameTimeout, h]

theorem execFrameTimeout_of_not_enabled (h : ¬ s.timeoutEnabled = true) : execFrameTimeout s = .next s := by
  simp [execFrameTimeout, h]

/-- Settles O21: `timeoutEnabled` is the conjunction of the four conditions, and it alone decides. -/
theorem frameTimeoutDiscardsAStarvedFrame : Obligations.FrameTimeoutDiscardsAStarvedFrame := by
  intro s ht h0
  have hconds := State.timeoutEnabled_iff ht h0
  refine ⟨fun limit hd hr hl hle => execFrameTimeout_of_enabled (hconds.2 ⟨hd, hr, limit, hl, hle⟩),
    fun t h hne => hconds.1 ?_⟩
  by_contra hoff
  cases (execFrameTimeout_of_not_enabled hoff).symm.trans h
  exact hne rfl

/-! ## The enabled micro-step -/

theorem enabledMicro_of_inUpdate (hm : s.mstate = .inUpdate k c) : s.enabledMicro = some .updateStep := by
  simp [State.enabledMicro, hm]

theorem enabledMicro_of_awaitingOpcode (hm : ∀ k c, s.mstate ≠ .inUpdate k c) (hd : s.dstate = .awaitingOpcode) :
    s.enabledMicro = none := by
  unfold State.enabledMicro
  split
  · next k c hu => exact absurd hu (hm k c)
  · rw [hd]

theorem enabledMicro_of_dispatching (hm : s.mstate = .inDispatch) (hd : s.dstate = .dispatching) :
    s.enabledMicro = some .dispatchExec := by
  simp [State.enabledMicro, hm, hd]

theorem enabledMicro_of_byteQueued (hm : s.mstate = .inDispatch) (hd : s.dstate = .awaitingPayload)
    (hr : s.rxq ≠ []) : s.enabledMicro = some .payloadByte := by
  simp [State.enabledMicro, hm, hd, hr]

theorem enabledMicro_of_starved (hm : s.mstate = .inDispatch) (hd : s.dstate = .awaitingPayload)
    (hr : s.rxq = []) : s.enabledMicro = if s.timeoutEnabled then some .frameTimeout else none := by
  simp [State.enabledMicro, hm, hd, hr]

/-- A starved frame's timeout waits for its deadline alone. -/
theorem enabledMicro_eq_frameTimeout_iff (hm : s.mstate = .inDispatch) (hd : s.dstate = .awaitingPayload)
    (hr : s.rxq = []) :
    s.enabledMicro = some .frameTimeout ↔ deadlinePassed s.cfg s.timer s.frameT0 = true := by
  simp [enabledMicro_of_starved hm hd hr, State.timeoutEnabled, hd, hr]

/-- Settles O51: the kinds of state of 10_state R41 (a), each with its enabled micro-step; a starved frame's is decided
by the deadline. -/
theorem enabledMicroStepIsTheOneItsConditionNames : Obligations.EnabledMicroStepIsTheOneItsConditionNames := by
  intro s hs
  obtain ⟨ht, h0, -⟩ := hs.widths
  rw [← State.timeoutEnabled_iff ht h0]
  by_cases hu : ∃ k c, s.mstate = .inUpdate k c
  · obtain ⟨k, c, hm⟩ := hu
    have hd : s.dstate = .awaitingOpcode := hs.dstate_eq_awaitingOpcode (by simp [hm])
    simp [enabledMicro_of_inUpdate hm, hm, hd, State.timeoutEnabled]
  · cases hd : s.dstate with
    | awaitingOpcode =>
      simp [enabledMicro_of_awaitingOpcode (by simpa using hu) hd, hu, State.timeoutEnabled, hd]
    | dispatching =>
      have hm : s.mstate = .inDispatch := hs.modes.2 (by simp [hd])
      simp [enabledMicro_of_dispatching hm hd, hm, State.timeoutEnabled, hd]
    | awaitingPayload =>
      have hm : s.mstate = .inDispatch := hs.modes.2 (by simp [hd])
      by_cases hr : s.rxq = []
      · cases hto : s.timeoutEnabled <;> simp [enabledMicro_of_starved hm hd hr, hm, hr, hto]
      · simp [enabledMicro_of_byteQueued hm hd hr, hm, hr, State.timeoutEnabled]

/-- Settles O22: OP_DISPATCH stamps the timer, the ticks move it on (`execAll_timerTicks`), and the difference is the
number of ticks (`subWrap_ticks`). -/
theorem timeoutIsCountedFromTheOpcodeByte : Obligations.TimeoutIsCountedFromTheOpcodeByte := by
  intro s t b i e limit n hm hr hl hlen hlimit ht hn h
  have hopcode : exec .opDispatch s = .next (beginFrame i e { s with rxq := [] }) :=
    execOpDispatch_of_registered hm hr hl
  rw [execAll, hopcode, andThen_next, execAll_timerTicks (s := beginFrame i e { s with rxq := [] }) n ht] at h
  cases h
  have hd : (beginFrame i e { s with rxq := [] }).dstate = .awaitingPayload := by simp [hlen.ne']
  refine (enabledMicro_eq_frameTimeout_iff
    (s := { beginFrame i e { s with rxq := [] } with timer := (s.timer + n) % 2 ^ s.cfg.tsw }) rfl hd rfl).trans ?_
  simp [deadlinePassed_iff, hlimit, subWrap_ticks, Nat.mod_eq_of_lt hn]

/-! ## PAYLOAD_BYTE -/

theorem execPayloadByte_of_enabled (hd : s.dstate = .awaitingPayload) (hr : s.rxq = b :: rest)
    (he : s.cfg.reg[s.cur]? = some e) :
    execPayloadByte s = .next { s with
      rxq := rest
      buf := s.buf.set s.cnt b
      cnt := s.cnt + 1
      dstate := if s.cnt + 1 = e.len then .dispatching else .awaitingPayload } := by
  simp [execPayloadByte, hd, State.rxPop, hr, withEntry, he]

theorem execPayloadByte_of_not_enabled (h : s.dstate ≠ .awaitingPayload ∨ s.rxq = []) :
    execPayloadByte s = .next s := by
  rcases h with hd | hr
  · simp [execPayloadByte, hd]
  · simp [execPayloadByte, State.rxPop, hr]

/-- Settles O20: the byte stored is `List.set` at `cnt`, read back at `cnt` and elsewhere. -/
theorem payloadByteStoresOneByte : Obligations.PayloadByteStoresOneByte := by
  refine ⟨fun s e b rest hd hr he => ?stores, fun s t h hne => ?onlyEnabled⟩
  case stores =>
    exact ⟨_, execPayloadByte_of_enabled hd hr he, rfl, List.length_set, List.getElem?_set_self,
      fun j hj => List.getElem?_set_ne hj.symm⟩
  case onlyEnabled =>
    obtain rfl | ⟨b, rest, e, hd, hr, -, -⟩ := execPayloadByte_eq_next h
    · exact absurd rfl hne
    · exact ⟨hd, by simp [hr]⟩

/-! ## DISPATCH_EXEC -/

theorem execDispatchExec_of_not_dispatching (h : s.dstate ≠ .dispatching) : execDispatchExec s = .next s := by
  simp [execDispatchExec, h]

/-- In Dispatching the entry's handler runs on the payload, and the main context is then free (R146). -/
theorem execDispatchExec_runs {payload : List Byte} (hd : s.dstate = .dispatching)
    (he : s.cfg.reg[s.cur]? = some e) (hp : s.payload e = payload) :
    ∃ u, runHandler e.handler e.opcode payload s = .next u ∧
      execDispatchExec s = .next { u with dstate := .awaitingOpcode, mstate := .idle } := by
  obtain ⟨lines, ws, n, -, hrun⟩ := runHandler_cases e.handler e.opcode payload s
  refine ⟨_, hrun, ?_⟩
  simp only [execDispatchExec, hd, if_true, withEntry_some he, hp, hrun, andThen_next]
  rfl

/-- Settles O23: DISPATCH_EXEC is one run of the entry's handler (`execDispatchExec_runs`), which for a servo entry is
the servo command on the bytes in front of `buf`. -/
theorem dispatchExecRunsTheOneHandler : Obligations.DispatchExecRunsTheOneHandler := by
  refine ⟨fun s b val more hd he hbuf => ?raw, fun s b h3 h2 h1 h0 more hd he hbuf => ?hex,
    fun s e n hd he hext => ?external, fun s t h hne => ?onlyDispatching⟩
  case raw => exact execDispatchExec_runs (payload := [b, val]) hd he (congrArg (List.take 2) hbuf)
  case hex => exact execDispatchExec_runs (payload := [b, h3, h2, h1, h0]) hd he (congrArg (List.take 5) hbuf)
  case external =>
    obtain ⟨u, hrun, hexec⟩ := execDispatchExec_runs hd he rfl
    rw [hext] at hrun
    cases hrun
    exact ⟨_, _, hexec⟩
  case onlyDispatching =>
    obtain rfl | ⟨e, u, hd, -⟩ := execDispatchExec_eq_next h
    · exact absurd rfl hne
    · exact hd

/-! ## Operations that do not happen (log 6) -/

theorem execUpdateStep_of_not_inUpdate (h : ∀ k c, s.mstate ≠ .inUpdate k c) : execUpdateStep s = .next s := by
  unfold execUpdateStep
  split
  · next k c hm => exact absurd hm (h k c)
  · rfl

theorem execOpDispatch_of_busy (hm : s.mstate ≠ .idle) : execOpDispatch s = .next s := by
  simp [execOpDispatch, hm]

theorem execOpUpdate_of_busy (hm : s.mstate ≠ .idle) (hk : k < s.cfg.pm.length) : execOpUpdate k s = .next s :=
  execOpUpdate_eq_next.2 ⟨_, List.getElem?_eq_getElem hk, .inl ⟨hm, rfl⟩⟩

theorem execOpReport_of_busy (hm : s.mstate ≠ .idle) (hk : k < s.cfg.pm.length) : execOpReport k s = .next s :=
  (withModule_some (List.getElem?_eq_getElem hk) _).trans (if_neg hm)

theorem execRxByte_of_not_ready (h : s.rxReady = false) : execRxByte b s = .next s := by
  simp [execRxByte, h]

/-- UNREGISTERED happens only to the oldest byte, unregistered, of an idle main context (log 9). -/
theorem execUnregistered_of_not_enabled
    (h : s.mstate ≠ .idle ∨ s.rxq.head? ≠ some b ∨ isUnregistered s.cfg b = false) :
    execUnregistered b s = .next s := by
  obtain hstay | ⟨rest, hm, hr, hu, -⟩ := execUnregistered_cases b s
  · exact hstay
  · simp [hm, hr, hu] at h

/-- Settles O28: each of the three requests is ignored by a busy main context. -/
theorem busyMainContextIgnoresRequests : Obligations.BusyMainContextIgnoresRequests :=
  fun _ hm => ⟨execOpDispatch_of_busy hm, fun _ hk => ⟨execOpUpdate_of_busy hm hk, execOpReport_of_busy hm hk⟩⟩

/-- Settles O29: one lemma per operation whose condition is false. -/
theorem operationsNotEnabledChangeNothing : Obligations.OperationsNotEnabledChangeNothing := by
  refine fun s => ⟨execPayloadByte_of_not_enabled, fun h => execFrameTimeout_of_not_enabled fun hon => ?timeout,
    execDispatchExec_of_not_dispatching, execUpdateStep_of_not_inUpdate, fun b => execRxByte_of_not_ready,
    busyMainContextIgnoresRequests s, fun b => execUnregistered_of_not_enabled⟩
  obtain ⟨hd, hr, hpassed⟩ := State.timeoutEnabled_iff_deadlinePassed.1 hon
  obtain ⟨limit, hlimit, -⟩ := deadlinePassed_iff.1 hpassed
  simp [hd, hr, hlimit, hpassed] at h

end Sys2Proof.Machine
end

section
/-! SUPPORT. The first entry of REG with an opcode (42_command_dispatcher R143), a run of OP_DISPATCHes, and a frame as
a run of operations and of the block's own steps (R150). -/

namespace Sys2Proof

/-- The search finds the first entry with that opcode. -/
theorem lookupFrom_of_first {es : List RegEntry} {i n : Nat} {e : RegEntry} (he : es[i]? = some e)
    (hfirst : ∀ (j : Nat) (e' : RegEntry), j < i → es[j]? = some e' → e'.opcode ≠ e.opcode) :
    lookupFrom es n e.opcode = some (n + i, e) := by
  induction es generalizing i n with
  | nil => simp at he
  | cons x xs ih =>
    cases i with
    | zero =>
      cases he
      simp [lookupFrom]
    | succ i =>
      have hx : x.opcode ≠ e.opcode := hfirst 0 x i.succ_pos rfl
      have hrest := ih (n := n + 1) he fun j e' hj => hfirst (j + 1) e' (Nat.succ_lt_succ hj)
      rw [lookupFrom, if_neg hx, hrest, Nat.add_right_comm, Nat.add_assoc]

theorem lookup_of_first {c : Config} {i : Nat} {e : RegEntry} (he : c.reg[i]? = some e)
    (hfirst : ∀ (j : Nat) (e' : RegEntry), j < i → c.reg[j]? = some e' → e'.opcode ≠ e.opcode) :
    lookup c e.opcode = some (i, e) := by
  rw [lookup, lookupFrom_of_first he hfirst, Nat.zero_add]

end Sys2Proof

namespace Sys2Proof.Machine

variable {s : State} {i : Nat} {e : RegEntry} {o : Byte} {got payload rest : List Byte}

/-! ## The opcode byte -/

theorem execOpDispatch_of_empty (hr : s.rxq = []) : execOpDispatch s = .next s := by
  simp [execOpDispatch, State.rxPop, hr]

/-- Settles O17: `lookup` answers `none` for an unregistered byte and else the first entry, which begins the frame. -/
theorem opDispatchReadsOneOpcodeByte : Obligations.OpDispatchReadsOneOpcodeByte := by
  refine fun s => ⟨rfl, execOpDispatch_of_busy, fun _ => execOpDispatch_of_empty, fun b rest hm hr =>
    ⟨fun hno => execOpDispatch_of_unregistered hm hr (lookup_eq_none.2 hno), fun i e he hb hfirst => ?_⟩⟩
  subst hb
  exact execOpDispatch_of_registered hm hr (lookup_of_first he hfirst)

/-- Settles O19, by induction on the run: each OP_DISPATCH takes its first byte away. -/
theorem junkRunTakesOneDispatchPerByte : Obligations.JunkRunTakesOneDispatchPerByte := by
  intro junk rest s hm hr hno
  induction junk generalizing s with
  | nil =>
    rw [List.nil_append] at hr
    simp [execAll, ← hr]
  | cons b junk ih =>
    obtain ⟨hb, hjunk⟩ := List.forall_mem_cons.1 hno
    have hfirst : exec .opDispatch s = .next { s with rxq := junk ++ rest } :=
      execOpDispatch_of_unregistered hm hr (lookup_eq_none.2 hb)
    rw [List.length_cons, List.replicate_succ, execAll, hfirst, andThen_next]
    exact ih { s with rxq := junk ++ rest } hm rfl hjunk

/-! ## A frame as a run of operations -/

/-- Any payload of REG fits in `buf` (10_state R32). -/
theorem State.Inv.len_le_buf (hs : s.Inv) (he : s.cfg.reg[i]? = some e) : e.len ≤ s.buf.length := by
  obtain ⟨-, -, hbuf, -⟩ := hs.frame
  exact hbuf ▸ Config.len_le_maxLen (List.mem_of_getElem? he)

/-- As many PAYLOAD_BYTEs as payload bytes are left collect them all (R144). -/
theorem execAll_payloadBytes (he : s.cfg.reg[i]? = some e) (hbuf : e.len ≤ s.buf.length)
    (hlen : got.length + payload.length = e.len) :
    execAll (List.replicate payload.length .payloadByte) (collecting s i e got (payload ++ rest)) =
      .next (collecting s i e (got ++ payload) rest) := by
  induction payload generalizing got with
  | nil => simp [execAll]
  | cons b payload ih =>
    rw [List.length_cons] at hlen
    have hbyte := execPayloadByte_collecting (b := b) (rest := payload ++ rest) he (got := got) (by omega) hbuf
    have hrest := ih (got := got ++ [b]) (by simp only [List.length_append, List.length_singleton]; omega)
    rw [List.append_assoc, List.singleton_append] at hrest
    rw [List.length_cons, List.replicate_succ, List.cons_append, execAll, exec_payloadByte, hbyte, andThen_next,
      hrest]

/-- OP_DISPATCH and the PAYLOAD_BYTEs of a queued frame collect it. -/
theorem execAll_collects (hs : s.Inv) (hm : s.mstate = .idle) (hl : lookup s.cfg o = some (i, e))
    (hr : s.rxq = o :: (payload ++ rest)) (hlen : payload.length = e.len) :
    execAll (.opDispatch :: List.replicate e.len .payloadByte) s = .next (collected s i e payload rest) := by
  obtain ⟨he, -⟩ := lookup_eq_some hl
  have hpayload := execAll_payloadBytes (got := []) (rest := rest) he (hs.len_le_buf he) (by simpa using hlen)
  rw [List.nil_append, collecting_eq_collected hlen, hlen] at hpayload
  rw [execAll, exec_opDispatch, execOpDispatch_of_registered hm hr hl, andThen_next, beginFrame_eq_collecting,
    hpayload]

/-- DISPATCH_EXEC of a collected frame: one run of the handler, then the main context is free and the rest of `rxq`
untouched (R146). -/
theorem execDispatchExec_routes (hl : lookup s.cfg o = some (i, e)) (hlen : payload.length = e.len) :
    ∃ t u, runHandler e.handler o payload (collected s i e payload rest) = .next u ∧
      execDispatchExec (collected s i e payload rest) = .next t ∧
      t = { u with dstate := .awaitingOpcode, mstate := .idle } ∧
      t.rxq = rest ∧ t.cfg = s.cfg ∧ t.pending = s.pending := by
  obtain ⟨he, hop⟩ := lookup_eq_some hl
  obtain ⟨lines, ws, n, -, hrun⟩ := runHandler_cases e.handler o payload s
  have hhandler := runHandler_collected (s := s) (i := i) (e := e) (payload := payload) (rest := rest)
    e.handler o payload
  rw [hrun, andThen_next] at hhandler
  have hexec := execDispatchExec_collected (rest := rest) he hlen
  rw [hop, hrun, andThen_next] at hexec
  exact ⟨_, _, hhandler, hexec, rfl, rfl, rfl, rfl⟩

/-- Settles O24: the operations collect the frame (`execAll_collects`), and DISPATCH_EXEC routes it
(`execDispatchExec_routes`). -/
theorem frameIsCollectedAndRoutedOnce : Obligations.FrameIsCollectedAndRoutedOnce := by
  intro s o i e payload rest hs hm hl hr hlen
  obtain ⟨t, u, hrun, hexec, ht, hrest, -⟩ := execDispatchExec_routes (rest := rest) hl hlen
  exact ⟨t, u, execAll_collects hs hm hl hr hlen, hrun, hexec, ht, hrest⟩

/-! ## A frame as a run of the block's own steps -/

/-- A block that waits goes on waiting. -/
theorem run_of_step_self (n : Nat) (h : step s = .next s) : Host.Core.run Sys2Proof.core n s = .next s := by
  induction n with
  | zero => rfl
  | succ n ih => rw [run_succ_of_step n h, ih]

/-- With nothing pending and the main context free the block waits, whatever `rxq` holds (R148). -/
theorem step_of_free (hwf : s.cfg.wf = true) (hp : s.pending = []) (hm : s.mstate = .idle)
    (hd : s.dstate = .awaitingOpcode) : step s = .next s :=
  step_of_fetch_eq_none hwf (State.fetch_eq_none hp (enabledMicro_of_awaitingOpcode (by simp [hm]) hd))

/-- Settles O25: the steps collect the frame (`run_reqDispatch`), the next one routes it (`execDispatchExec_routes`),
and the free block waits (`step_of_free`). -/
theorem ownStepsRouteOneFramePerRequest : Obligations.OwnStepsRouteOneFramePerRequest := by
  intro s o i e payload rest hs hm hl hr hlen
  obtain ⟨t, u, -, hexec, ht, hrest, hcfg, hpending⟩ :=
    execDispatchExec_routes (s := s.withPending []) (rest := rest) hl hlen
  have hidle : t.mstate = .idle := by rw [ht]
  have hroute : step (collected (s.withPending []) i e payload rest) = .next t := by
    rw [← hexec]
    exact step_of_enabledMicro (s := collected (s.withPending []) i e payload rest) hs.config rfl rfl
  have hwait : step t = .next t := step_of_free (hcfg ▸ hs.config) hpending hidle (by rw [ht])
  refine ⟨t, run_reqDispatch 0 hs hm hl hr hlen, hexec, hrest, hidle, fun n => ?_⟩
  have hsteps := run_reqDispatch (n + 1) hs hm hl hr hlen
  rw [run_succ_of_step n hroute, run_of_step_self n hwait] at hsteps
  rw [show e.len + 2 + n = e.len + (n + 1) + 1 by omega]
  exact hsteps

end Sys2Proof.Machine
end

section
/-! SUPPORT. Which operations write `dstate`, and how (42_command_dispatcher R140). -/

namespace Sys2Proof.Machine

variable {s t : State}

/-- The operations that write `dstate` (10_state R29). -/
def writesDState : Instr → Bool
  | .opDispatch | .payloadByte | .frameTimeout | .dispatchExec | .reset => true
  | _ => false

theorem runHandler_keeps_dstate {h : Handler} {op : Byte} {p : List Byte} (hr : runHandler h op p s = .next t) :
    t.dstate = s.dstate := by
  obtain ⟨lines, ws, n, -, e⟩ := runHandler_cases h op p s
  cases e.symm.trans hr
  rfl

theorem exec_keeps_dstate {i : Instr} (h : exec i s = .next t) (hi : writesDState i = false) :
    t.dstate = s.dstate := by
  cases i
  case opDispatch | payloadByte | frameTimeout | dispatchExec | reset => cases hi
  case servoRaw b v => exact runHandler_keeps_dstate (h := .servoRaw) (p := [b, v]) h
  case servoHex b h3 h2 h1 h0 => exact runHandler_keeps_dstate (h := .servoHex) (p := [b, h3, h2, h1, h0]) h
  case unregistered b =>
    obtain e | ⟨rest, -, -, -, e⟩ := execUnregistered_cases b s <;> cases e.symm.trans h <;> rfl
  case changeReport k c w =>
    obtain ⟨m, -, -, rfl⟩ := changeLine_eq_next.1 h
    rfl
  case fullReport k c =>
    obtain ⟨m, x, -, -, rfl⟩ := fullLine_eq_next.1 h
    rfl
  case rise k c =>
    obtain ⟨x, -, rfl⟩ := execRise_eq_next.1 h
    rfl
  case fall k c =>
    obtain ⟨x, -, rfl⟩ := execFall_eq_next.1 h
    rfl
  case rxByte d => obtain ⟨-, e⟩ | ⟨-, e⟩ := execRxByte_cases d s <;> cases e.symm.trans h <;> rfl
  case opUpdate k => obtain ⟨m, -, ⟨-, rfl⟩ | ⟨-, rfl⟩⟩ := execOpUpdate_eq_next.1 h <;> rfl
  case opReport k =>
    obtain ⟨lines, rfl⟩ := execOpReport_eq_next h
    rfl
  case updateStep =>
    obtain rfl | ⟨k, c, u, m, -, hu, -, rfl⟩ := execUpdateStep_eq_next h
    · rfl
    · have kept : u.dstate = s.dstate := observeChannel_dstate hu
      exact kept
  case poll k c => obtain ⟨x, -, ⟨-, rfl⟩ | ⟨-, rfl⟩⟩ := execPoll_eq_next.1 h <;> rfl
  case updateChannel k c => exact observeChannel_dstate h
  case timerTick | ackServoRaw | ackServoHex | txLine => cases h; rfl
  case hexdigit | hex2 | hex4 | hex8 | hexval | hexdec4 => cases h; rfl

/-! ## The transitions of each writer (R140) -/

theorem execOpDispatch_transition (h : execOpDispatch s = .next t) (hne : t.dstate ≠ s.dstate) :
    s.mstate = .idle ∧ ∃ (b : Byte) (rest : List Byte) (j : Nat) (e : RegEntry),
      s.rxq = b :: rest ∧ s.cfg.reg[j]? = some e ∧ e.opcode = b ∧
      t.dstate = (if e.len = 0 then .dispatching else .awaitingPayload) := by
  obtain ⟨-, hexec⟩ | ⟨b, rest, -, -, -, hexec⟩ | ⟨b, rest, j, e, hm, hr, hl, hexec⟩ := execOpDispatch_cases s <;>
    cases hexec.symm.trans h
  · exact absurd rfl hne
  · exact absurd rfl hne
  · obtain ⟨he, hop⟩ := lookup_eq_some hl
    exact ⟨hm, b, rest, j, e, hr, he, hop, rfl⟩

theorem execPayloadByte_transition (h : execPayloadByte s = .next t) (hne : t.dstate ≠ s.dstate) :
    s.dstate = .awaitingPayload ∧ t.dstate = .dispatching ∧
      ∃ e : RegEntry, s.cfg.reg[s.cur]? = some e ∧ s.cnt + 1 = e.len := by
  obtain rfl | ⟨b, rest, e, hd, -, he, rfl⟩ := execPayloadByte_eq_next h
  · exact absurd rfl hne
  · by_cases hlast : s.cnt + 1 = e.len
    · exact ⟨hd, if_pos hlast, e, he, hlast⟩
    · exact absurd (if_neg hlast) hne

theorem execFrameTimeout_transition (h : execFrameTimeout s = .next t) (hne : t.dstate ≠ s.dstate) :
    s.dstate = .awaitingPayload ∧ s.rxq = [] ∧ deadlinePassed s.cfg s.timer s.frameT0 = true ∧
      t.dstate = .awaitingOpcode := by
  obtain ⟨hon, hexec⟩ | ⟨-, hexec⟩ := execFrameTimeout_cases s <;> cases hexec.symm.trans h
  · obtain ⟨hd, hr, hpassed⟩ := State.timeoutEnabled_iff_deadlinePassed.1 hon
    exact ⟨hd, hr, hpassed, rfl⟩
  · exact absurd rfl hne

theorem execDispatchExec_transition (h : execDispatchExec s = .next t) (hne : t.dstate ≠ s.dstate) :
    s.dstate = .dispatching ∧ t.dstate = .awaitingOpcode := by
  obtain rfl | ⟨e, u, hd, -, -, rfl⟩ := execDispatchExec_eq_next h
  · exact absurd rfl hne
  · exact ⟨hd, rfl⟩

/-- Settles O27: only the five writers of `dstate` can change it (`exec_keeps_dstate`), each along its transition. -/
theorem dispatcherMakesOnlyTheTableTransitions : Obligations.DispatcherMakesOnlyTheTableTransitions := by
  intro i s t h hne
  cases i
  case opDispatch =>
    obtain ⟨hm, hbegins⟩ := execOpDispatch_transition h hne
    have hfrom (hmodes : s.ModesAgree) : s.dstate = .awaitingOpcode := by
      by_contra hd
      cases hm.symm.trans (hmodes.2 hd)
    exact .inl ⟨rfl, hm, hfrom, hbegins⟩
  case payloadByte => exact .inr (.inl ⟨rfl, execPayloadByte_transition h hne⟩)
  case frameTimeout => exact .inr (.inr (.inl ⟨rfl, execFrameTimeout_transition h hne⟩))
  case dispatchExec => exact .inr (.inr (.inr (.inl ⟨rfl, execDispatchExec_transition h hne⟩)))
  case reset =>
    cases h
    exact .inr (.inr (.inr (.inr ⟨rfl, rfl⟩)))
  all_goals exact absurd (exec_keeps_dstate h rfl) hne

end Sys2Proof.Machine
end

section
/-! SUPPORT. The hex codec in the words of the spec (43_report_encoder R170 to R176): the digits of the encoders in
positional form, the bytes that the decoders accept, and when each undoes the other. -/

namespace Sys2Proof.Machine

variable {ch h3 h2 h1 h0 : Byte} {n : Nat} {d : Nibble} {v : Half}

/-! ## Encoding -/

theorem hexdigit_toNat (d : Nibble) :
    (hexdigit d).toNat = if d.toNat ≤ 9 then 0x30 + d.toNat else 0x41 + (d.toNat - 10) := by
  have hd := d.isLt
  unfold hexdigit
  split <;> rw [BitVec.toNat_ofNat, Nat.mod_eq_of_lt (by omega)]

theorem hexdigit_eq_asciiDigit (d : Nibble) : hexdigit d = asciiDigit d.toNat := by
  unfold hexdigit asciiDigit
  split
  · rfl
  · next hletter => rw [show 0x41 + (d.toNat - 10) = 0x37 + d.toNat by omega]

theorem hex2_eq_digits (b : Byte) :
    hex2 b = (List.range 2).map (fun j => asciiDigit (b.toNat / 16 ^ (1 - j) % 16)) := by
  simp [hex2, hexdigit_eq_asciiDigit, Nat.shiftRight_eq_div_pow, List.range_succ]

theorem hex4_eq_digits4 (v : Half) : hex4 v = digits4 v := by
  simp only [hex4, hex2, hexdigit_eq_asciiDigit, BitVec.extractLsb'_toNat, Nat.shiftRight_eq_div_pow, digits4,
    List.cons_append, List.nil_append, List.cons.injEq, and_true]
  and_intros <;> congr 1 <;> omega

theorem digits4_eq_digits (v : Half) :
    digits4 v = (List.range 4).map (fun j => asciiDigit (v.toNat / 16 ^ (3 - j) % 16)) := by
  simp [digits4, List.range_succ]

/-- The digits of the high half, then those of the low half (R173). -/
theorem hex8_eq_digits (v : Quad) :
    hex8 v = (List.range 8).map (fun j => asciiDigit (v.toNat / 16 ^ (7 - j) % 16)) := by
  simp only [hex8, hex4_eq_digits4, digits4, BitVec.extractLsb'_toNat, Nat.shiftRight_eq_div_pow, List.range_succ,
    List.range_zero, List.map_cons, List.map_nil, List.cons_append, List.nil_append, List.cons.injEq,
    and_true, Nat.reduceSub]
  and_intros <;> congr 1 <;> omega

/-! ## Decoding -/

/-- The bytes of R174's three ranges are those that `hexval` gives a value. -/
theorem digitOf_iff_hexval : DigitOf ch n ↔ ∃ d, hexval ch = some d ∧ d.toNat = n := by
  unfold DigitOf hexval
  split_ifs
  case neg =>
    simp only [false_and, exists_false, iff_false]
    omega
  all_goals
    simp only [Option.some.injEq, exists_eq_left', BitVec.toNat_ofNat]
    omega

theorem not_isDigit_iff_hexval : ¬ IsDigit ch ↔ hexval ch = none := by
  simp only [IsDigit, digitOf_iff_hexval]
  cases hexval ch <;> simp

/-- One byte that is no digit makes the field invalid (R175). -/
theorem hexdec4_eq_none (h : ∃ ch ∈ [h3, h2, h1, h0], ¬ IsDigit ch) : hexdec4 h3 h2 h1 h0 = none := by
  obtain ⟨ch, hmem, hch⟩ := h
  refine Option.eq_none_iff_forall_ne_some.2 fun v hv => ?_
  obtain ⟨d3, d2, d1, d0, e3, e2, e1, e0, -⟩ := hexdec4_eq_some.1 hv
  have hall : ∀ ch ∈ [h3, h2, h1, h0], hexval ch ≠ none := by simp [e3, e2, e1, e0]
  exact hall ch hmem (not_isDigit_iff_hexval.1 hch)

/-! ## Round trip (R176) -/

/-- Encoding a digit's value gives the digit back unless it is a lower-case letter. -/
theorem hexdigit_eq_iff_of_hexval (h : hexval ch = some d) : hexdigit d = ch ↔ ch.toNat < 0x61 := by
  have hdigit : DigitOf ch d.toNat := digitOf_iff_hexval.2 ⟨d, h, rfl⟩
  unfold DigitOf at hdigit
  rw [← BitVec.toNat_inj, hexdigit_toNat]
  split <;> omega

theorem hex4_joinNibbles (d3 d2 d1 d0 : Nibble) :
    hex4 (joinNibbles d3 d2 d1 d0) = [hexdigit d3, hexdigit d2, hexdigit d1, hexdigit d0] := by
  have b3 := d3.isLt
  have b2 := d2.isLt
  have b1 := d1.isLt
  have b0 := d0.isLt
  simp only [hex4_eq_digits4, digits4, joinNibbles_toNat, hexdigit_eq_asciiDigit]
  congr <;> omega

theorem hex4_eq_iff_of_hexdec4 (h : hexdec4 h3 h2 h1 h0 = some v) :
    hex4 v = [h3, h2, h1, h0] ↔ ∀ ch ∈ [h3, h2, h1, h0], ch.toNat < 0x61 := by
  obtain ⟨d3, d2, d1, d0, e3, e2, e1, e0, rfl⟩ := hexdec4_eq_some.1 h
  simp [hex4_joinNibbles, hexdigit_eq_iff_of_hexval e3, hexdigit_eq_iff_of_hexval e2, hexdigit_eq_iff_of_hexval e1,
    hexdigit_eq_iff_of_hexval e0]

theorem hex4_decodable (v : Half) : ∃ a b c d, hex4 v = [a, b, c, d] ∧ hexdec4 a b c d = some v :=
  ⟨_, _, _, _, rfl, hexdec4_eq_some.2 ⟨_, _, _, _, hexval_hexdigit _, hexval_hexdigit _, hexval_hexdigit _,
    hexval_hexdigit _, (joinNibbles_extract v).symm⟩⟩

/-! ## Report lines -/

theorem reportBytes_eol (cfg : Config) (kind : Byte) (m : PulseModule) (c : Nat) (w : Half) :
    reportBytes cfg kind m.letter c w ++ cfg.eol = reportLine cfg kind m c w := by
  rw [reportBytes, hex4_eq_digits4]
  rfl

/-! ## The obligations -/

/-- Settles O32: the digit byte of R170, with no wrap in its eight bits (`hexdigit_toNat`). -/
theorem hexdigitGivesTheUpperCaseDigit : Obligations.HexdigitGivesTheUpperCaseDigit :=
  fun _ d => ⟨hexdigit d, rfl, hexdigit_toNat d⟩

/-- Settles O33: two digits by the nibbles of the byte, four by its two bytes, eight by its two halves. -/
theorem hexEncodersWriteMostSignificantDigitFirst : Obligations.HexEncodersWriteMostSignificantDigitFirst := by
  refine fun s => ⟨fun b => ?_, fun v => ?_, fun v => ?_⟩
  · rw [exec_hex2, execHex2, hex2_eq_digits]
    rfl
  · rw [exec_hex4, execHex4, hex4_eq_digits4, digits4_eq_digits]
    rfl
  · rw [exec_hex8, execHex8, hex8_eq_digits]
    rfl

/-- Settles O34: the three ranges of R174 are exactly what `hexval` accepts. -/
theorem hexvalAcceptsBothCasesOnly : Obligations.HexvalAcceptsBothCasesOnly := by
  intro s ch
  refine ⟨fun n hn => ?_, fun hno => ?_⟩
  · obtain ⟨d, hd, rfl⟩ := digitOf_iff_hexval.1 hn
    exact ⟨d, rfl, by rw [exec_hexval, execHexval, hd]; rfl⟩
  · rw [exec_hexval, execHexval, not_isDigit_iff_hexval.1 hno]
    rfl

/-- Settles O35: `joinNibbles` is positional, and one byte that is no digit makes the field invalid. -/
theorem hexdec4JoinsFourDigits : Obligations.Hexdec4JoinsFourDigits := by
  intro s h3 h2 h1 h0
  refine ⟨fun n3 n2 n1 n0 hn3 hn2 hn1 hn0 => ?_, fun hno => ?_⟩
  · obtain ⟨d3, e3, rfl⟩ := digitOf_iff_hexval.1 hn3
    obtain ⟨d2, e2, rfl⟩ := digitOf_iff_hexval.1 hn2
    obtain ⟨d1, e1, rfl⟩ := digitOf_iff_hexval.1 hn1
    obtain ⟨d0, e0, rfl⟩ := digitOf_iff_hexval.1 hn0
    have hjoin := hexdec4_eq_some.2 ⟨d3, d2, d1, d0, e3, e2, e1, e0, rfl⟩
    exact ⟨_, joinNibbles_toNat d3 d2 d1 d0, by rw [exec_hexdec4, execHexdec4, hjoin]; rfl⟩
  · rw [exec_hexdec4, execHexdec4, hexdec4_eq_none hno]
    rfl

/-- Settles O36: each digit byte comes back from its value unless it is a lower-case letter. -/
theorem hexRoundTrip : Obligations.HexRoundTrip := by
  refine ⟨fun s v => ?_, fun s a b c d v h => ?_⟩
  · obtain ⟨a, b, c, d, henc, hdec⟩ := hex4_decodable v
    exact ⟨a, b, c, d, by rw [exec_hex4, execHex4, henc]; rfl, by rw [exec_hexdec4, execHexdec4, hdec]; rfl⟩
  · have hdec : hexdec4 a b c d = some v := by simpa [execHexdec4, State.setResult] using h
    rw [← hex4_eq_iff_of_hexdec4 hdec]
    simp [execHex4, State.setResult]

/-- Settles O37: `emitLine` appends once, the bytes with their EOL (R177). -/
theorem txLineAppendsTheLineAndItsTerminator : Obligations.TxLineAppendsTheLineAndItsTerminator := by
  intro s bytes
  simp [execTxLine, State.emitLine, State.txEmit]

/-- Settles O38: both reports are `reportBytes` and EOL, with the width given and with the width held. -/
theorem reportLinesHaveTheirLayout : Obligations.ReportLinesHaveTheirLayout := by
  refine ⟨fun s k c m w hm hc => ?_, fun s k c m x hm hx => ?_⟩
  · rw [exec_changeReport, execChangeReport, changeLine_eq_next.2 ⟨m, hm, hc, rfl⟩, State.emitLine, reportBytes_eol]
    rfl
  · rw [exec_fullReport, execFullReport, fullLine_eq_next.2 ⟨m, x, hm, hx, rfl⟩, State.emitLine, reportBytes_eol]
    rfl

/-- Settles O39: both acknowledgments are the opcode, the payload as received, and EOL. -/
theorem acknowledgmentsEchoTheFrame : Obligations.AcknowledgmentsEchoTheFrame :=
  fun _ _ _ _ _ _ _ => ⟨rfl, rfl⟩

end Sys2Proof.Machine
end

section
/-! SUPPORT. The update of a pulse module (44_modules R192, R193): what UPDATE_CHANNEL does to its channel and what it
leaves, UPDATE_STEP as UPDATE_CHANNEL and a move of the sequencer, and the steps of one request side by side with the
UPDATE_CHANNELs that they are. -/

namespace Sys2Proof.Machine

variable {s t u : State} {k c : Nat} {x : Channel} {m : PulseModule} {cfg : Config}

/-! ## UPDATE_CHANNEL -/

theorem observeChannel_of_noSample (hx : s.chan? k c = some x) (hn : x.hasNew = false) :
    observeChannel k c s = .next s :=
  observeChannel_eq_next.2 ⟨x, hx, .inl ⟨hn, rfl⟩⟩

theorem observeChannel_of_heldWidth (hx : s.chan? k c = some x) (hn : x.hasNew = true)
    (hw : x.width s.cfg = x.lastWidth) :
    observeChannel k c s = .next (s.setChan k c { x with hasNew := false, lastWidth := x.width s.cfg }) :=
  observeChannel_eq_next.2 ⟨x, hx, .inr (.inl ⟨hn, hw, rfl⟩)⟩

theorem observeChannel_of_newWidth (hx : s.chan? k c = some x) (hn : x.hasNew = true)
    (hw : x.width s.cfg ≠ x.lastWidth) (hm : s.cfg.pm[k]? = some m) (hc : c < m.nch) :
    observeChannel k c s =
      .next ((s.setChan k c { x with hasNew := false, lastWidth := x.width s.cfg }).emitLine
        (reportBytes s.cfg kindChange m.letter c (x.width s.cfg))) :=
  observeChannel_eq_next.2 ⟨x, hx, .inr (.inr ⟨hn, hw, m, hm, hc, rfl⟩)⟩

/-- UPDATE_CHANNEL on a channel of the configuration always answers a next state. -/
theorem exists_observeChannel (hx : s.chan? k c = some x) (hm : s.cfg.pm[k]? = some m) (hc : c < m.nch) :
    ∃ t, observeChannel k c s = .next t := by
  cases hn : x.hasNew
  · exact ⟨_, observeChannel_of_noSample hx hn⟩
  · by_cases hw : x.width s.cfg = x.lastWidth
    · exact ⟨_, observeChannel_of_heldWidth hx hn hw⟩
    · exact ⟨_, observeChannel_of_newWidth hx hn hw hm hc⟩

/-- It writes the channels and `tx` only. -/
theorem observeChannel_frame (h : observeChannel k c s = .next t) : t = { s with ch := t.ch, tx := t.tx } := by
  obtain ⟨x, -, ⟨-, rfl⟩ | ⟨-, -, rfl⟩ | ⟨-, -, m, -, -, rfl⟩⟩ := observeChannel_eq_next.1 h <;> rfl

/-- It leaves no sample behind. -/
theorem observeChannel_clears_hasNew (h : observeChannel k c s = .next t) :
    ∃ y, t.chan? k c = some y ∧ y.hasNew = false := by
  obtain ⟨x, hx, ⟨hn, rfl⟩ | ⟨-, -, rfl⟩ | ⟨-, -, m, -, -, rfl⟩⟩ := observeChannel_eq_next.1 h
  · exact ⟨x, hx, hn⟩
  · exact ⟨_, State.chan?_setChan_self hx, rfl⟩
  · exact ⟨_, State.chan?_setChan_self hx, rfl⟩

/-- Settles O11: POLL and UPDATE_CHANNEL without a sample, with one of the held width, with one of another width. -/
theorem updateChannelPollsAndReportsAChange : Obligations.UpdateChannelPollsAndReportsAChange := by
  intro s k c x m hx hm hc
  cases hn : x.hasNew
  case false =>
    exact ⟨_, s, none, execPoll_of_noSample hx hn, rfl, observeChannel_of_noSample hx hn, rfl, by simp, fun _ => rfl⟩
  case true =>
    by_cases hw : x.width s.cfg = x.lastWidth
    · refine ⟨_, _, some (x.width s.cfg), execPoll_of_sample hx hn, rfl, observeChannel_of_heldWidth hx hn hw, rfl,
        fun w e hne => ?_, fun _ => rfl⟩
      cases e
      exact absurd hw hne
    · refine ⟨_, _, some (x.width s.cfg), execPoll_of_sample hx hn, rfl,
        observeChannel_of_newWidth hx hn hw hm hc, rfl, fun w e _ => ?_, by simp [hw]⟩
      cases e
      exact congrArg (s.tx ++ ·) (reportBytes_eol s.cfg kindChange m c _)

/-! ## UPDATE_STEP -/

/-- `s` with another `mstate`. -/
def State.withMState (s : State) (p : MState) : State := { s with mstate := p }

/-- Where the sequencer stands when channel `c` of module `m` is the next one: there, or idle behind the last one. -/
def sequencerAt (k : Nat) (m : PulseModule) (c : Nat) : MState := if c < m.nch then .inUpdate k c else .idle

/-- UPDATE_CHANNEL neither sees nor writes `mstate`. -/
theorem observeChannel_withMState {p : MState} (h : observeChannel k c s = .next t) :
    observeChannel k c (s.withMState p) = .next (t.withMState p) := by
  obtain ⟨x, hx, ⟨hn, rfl⟩ | ⟨hn, hw, rfl⟩ | ⟨hn, hw, m, hm, hc, rfl⟩⟩ := observeChannel_eq_next.1 h
  · exact observeChannel_of_noSample (s := t.withMState p) hx hn
  · exact observeChannel_of_heldWidth (s := s.withMState p) hx hn hw
  · exact observeChannel_of_newWidth (s := s.withMState p) hx hn hw hm hc

/-- UPDATE_STEP is UPDATE_CHANNEL on the current channel and a move to the next one (R193). -/
theorem execUpdateStep_of_inUpdate (hs : s.mstate = .inUpdate k c) (hu : observeChannel k c s = .next u)
    (hm : s.cfg.pm[k]? = some m) : execUpdateStep s = .next (u.withMState (sequencerAt k m (c + 1))) := by
  rw [← observeChannel_keeps_cfg hu] at hm
  simp only [execUpdateStep, hs, hu, andThen_next, advanceUpdate, withModule_some hm]
  rfl

/-- Settles O12: OP_UPDATE and UPDATE_STEP by their equations (`execOpUpdate_eq_next`, `execUpdateStep_of_inUpdate`). -/
theorem updateStepObservesOneChannelAndAdvances : Obligations.UpdateStepObservesOneChannelAndAdvances := by
  refine ⟨fun s k hk hs => ?starts, fun s k c x m hs hx hm hc => ?advances, fun s t h hne => ?onlyInUpdate⟩
  case starts => exact execOpUpdate_eq_next.2 ⟨_, List.getElem?_eq_getElem hk, .inr ⟨hs, rfl⟩⟩
  case advances =>
    obtain ⟨u, hu⟩ := exists_observeChannel hx hm hc
    exact ⟨u, hu, execUpdateStep_of_inUpdate hs hu hm⟩
  case onlyInUpdate =>
    obtain rfl | ⟨k, c, -, -, hs, -⟩ := execUpdateStep_eq_next h
    · exact absurd rfl hne
    · exact ⟨k, c, hs⟩

/-! ## UPDATE_CHANNEL on the channels of a module, ascending -/

/-- UPDATE_CHANNEL on the channels 0 to `n - 1` of module `k`. -/
def updateChannels (k n : Nat) : List Instr := (List.range n).map (Instr.updateChannel k)

theorem execAll_updateChannels_succ (n : Nat) :
    execAll (updateChannels k (n + 1)) s = andThen (execAll (updateChannels k n) s) (observeChannel k n) := by
  rw [updateChannels, List.range_succ, List.map_append, execAll_append, List.map_singleton, execAll_singleton]
  rfl

theorem execAll_updateChannels_frame {n : Nat} (h : execAll (updateChannels k n) s = .next t) :
    t = { s with ch := t.ch, tx := t.tx } := by
  induction n generalizing t with
  | zero => cases h; rfl
  | succ n ih =>
    rw [execAll_updateChannels_succ, andThen_eq_next] at h
    obtain ⟨u, hu, ht⟩ := h
    rw [observeChannel_frame ht, ih hu]

theorem execAll_keeps_inv {is : List Instr} (hs : s.Inv) (h : execAll is s = .next t) : t.Inv := by
  induction is generalizing s with
  | nil => cases h; exact hs
  | cons i is ih =>
    obtain ⟨u, hu, ht⟩ := andThen_eq_next.1 h
    exact ih (exec_keeps_inv hs hu) ht

/-- They all answer a next state. -/
theorem exists_execAll_updateChannels (hs : s.Inv) (hm : s.cfg.pm[k]? = some m) {n : Nat} (hn : n ≤ m.nch) :
    ∃ t, execAll (updateChannels k n) s = .next t := by
  induction n with
  | zero => exact ⟨s, rfl⟩
  | succ n ih =>
    obtain ⟨u, hu⟩ := ih (by omega)
    have hcfg : u.cfg = s.cfg := by rw [execAll_updateChannels_frame hu]
    rw [← hcfg] at hm
    obtain ⟨x, hx⟩ := (execAll_keeps_inv hs hu).shape.exists_chan? (Config.hasChannel_iff.2 ⟨m, hm, hn⟩)
    obtain ⟨t, ht⟩ := exists_observeChannel hx hm hn
    exact ⟨t, by rw [execAll_updateChannels_succ, hu, andThen_next, ht]⟩

/-- No channel observed keeps a waiting sample: its own UPDATE_CHANNEL takes it, the later ones leave the channel. -/
theorem execAll_updateChannels_clear {n : Nat} (h : execAll (updateChannels k n) s = .next t) (hc : c < n) :
    ∃ y, t.chan? k c = some y ∧ y.hasNew = false := by
  induction n generalizing t with
  | zero => cases hc
  | succ n ih =>
    rw [execAll_updateChannels_succ, andThen_eq_next] at h
    obtain ⟨u, hu, ht⟩ := h
    obtain rfl | hlt := Nat.eq_or_lt_of_le (Nat.lt_succ_iff.1 hc)
    · exact observeChannel_clears_hasNew ht
    · have kept : t.chan? k c = u.chan? k c := (exec_keeps_otherChannel (by simp [hlt.ne]) .updateChannel ht).1
      rw [kept]
      exact ih hu hlt

/-! ## One request and its micro-steps -/

theorem Config.hasModule_of_getElem? (hm : cfg.pm[k]? = some m) : cfg.hasModule k = true :=
  decide_eq_true (List.getElem?_eq_some_iff.1 hm).1

theorem decodeSignal_reqUpdate (hm : cfg.pm[k]? = some m) :
    decodeSignal cfg (.port (.reqUpdate k) 1) = .ok (.opUpdate k) := by
  simp [decodeSignal, decodePort, Config.hasModule_of_getElem? hm, strobe]

/-- A request to the idle block starts the sequencer at channel 0. -/
theorem step_reqUpdate (hwf : s.cfg.wf = true) (hs : s.mstate = .idle) (hm : s.cfg.pm[k]? = some m) :
    step (s.withPending [.port (.reqUpdate k) 1]) = .next ((s.withPending []).withMState (sequencerAt k m 0)) := by
  have hpos : 0 < m.nch := by simpa [Config.hasChannel, hm] using Config.hasChannel_zero hwf hm
  have hfirst : sequencerAt k m 0 = .inUpdate k 0 := if_pos hpos
  have hstart : exec (.opUpdate k) (s.withPending []) = .next ((s.withPending []).withMState (.inUpdate k 0)) :=
    execOpUpdate_eq_next.2 ⟨m, hm, .inr ⟨hs, rfl⟩⟩
  rw [hfirst, ← hstart]
  exact step_of_decoded (s := s.withPending _) hwf (State.fetch_of_pending_cons rfl) (decodeSignal_reqUpdate hm)

/-- With nothing pending, a step of the sequencer at channel `c` is UPDATE_CHANNEL there. -/
theorem step_sequencerAt (hwf : s.cfg.wf = true) (hp : s.pending = []) (hm : s.cfg.pm[k]? = some m) (hc : c < m.nch)
    (h : observeChannel k c s = .next t) :
    step (s.withMState (sequencerAt k m c)) = .next (t.withMState (sequencerAt k m (c + 1))) := by
  have hat : (s.withMState (sequencerAt k m c)).mstate = .inUpdate k c := if_pos hc
  have hexec := execUpdateStep_of_inUpdate hat (observeChannel_withMState h) hm
  exact (step_of_enabledMicro (s := s.withMState (sequencerAt k m c)) hwf hp (enabledMicro_of_inUpdate hat)).trans hexec

/-- The first `n` steps of the sequencer are UPDATE_CHANNEL on the first `n` channels. -/
theorem run_sequencer (hwf : s.cfg.wf = true) (hp : s.pending = []) (hm : s.cfg.pm[k]? = some m) {n : Nat}
    (hn : n ≤ m.nch) (h : execAll (updateChannels k n) s = .next t) (more : Nat) :
    Host.Core.run Sys2Proof.core (n + more) (s.withMState (sequencerAt k m 0)) =
      Host.Core.run Sys2Proof.core more (t.withMState (sequencerAt k m n)) := by
  induction n generalizing t more with
  | zero => cases h; rw [Nat.zero_add]
  | succ n ih =>
    rw [execAll_updateChannels_succ, andThen_eq_next] at h
    obtain ⟨u, hu, ht⟩ := h
    have hframe := execAll_updateChannels_frame hu
    have hcfg : u.cfg = s.cfg := by rw [hframe]
    have hpending : u.pending = [] := by rw [hframe, ← hp]
    have hstep := step_sequencerAt (hcfg ▸ hwf) hpending (hcfg ▸ hm) hn ht
    rw [Nat.add_right_comm, Nat.add_assoc, ih (by omega) hu, run_succ_of_step more hstep]

/-- A channel that is there is one of the module's. -/
theorem State.ShapeOk.lt_nch (hs : s.ShapeOk) (hm : s.cfg.pm[k]? = some m) (hx : s.chan? k c = some x) :
    c < m.nch := by
  obtain ⟨-, hlen⟩ := hs
  obtain ⟨row, hrow, hc⟩ := State.chan?_eq_some.1 hx
  rw [← hlen k m row hm hrow]
  exact (List.getElem?_eq_some_iff.1 hc).1

/-- Settles O13: the request starts the sequencer (`step_reqUpdate`), its steps are the UPDATE_CHANNELs
(`run_sequencer`), and behind the last channel it is idle. -/
theorem updateVisitsEveryChannelOnceAscending : Obligations.UpdateVisitsEveryChannelOnceAscending := by
  intro s k m hs hidle hm
  have hs0 : (s.withPending []).Inv := hs.withPending []
  obtain ⟨t, ht⟩ := exists_execAll_updateChannels hs0 hm le_rfl
  have hframe := execAll_updateChannels_frame ht
  have hcfg : t.cfg = s.cfg := by rw [hframe]; rfl
  have hmstate : t.mstate = .idle := by rw [hframe]; exact hidle
  refine ⟨t, ?run, ht, hmstate, fun c y hy => ?clear⟩
  case run =>
    have hlast : t.withMState (sequencerAt k m m.nch) = t := by
      rw [sequencerAt, if_neg (Nat.lt_irrefl _), ← hmstate]
      rfl
    have hsteps := run_sequencer (s := s.withPending []) hs.config rfl hm le_rfl ht 0
    rw [hlast] at hsteps
    exact (run_succ_of_step m.nch (step_reqUpdate hs.config hidle hm)).trans hsteps
  case clear =>
    have hc : c < m.nch := (execAll_keeps_inv hs0 ht).shape.lt_nch (hcfg ▸ hm) hy
    obtain ⟨z, hz, hn⟩ := execAll_updateChannels_clear ht hc
    cases hy.symm.trans hz
    exact hn

end Sys2Proof.Machine
end

section
/-! SUPPORT. The full report of a pulse module (44_modules R194): the lines it appends, from the held widths, and that
nothing else of the state shows in them (70_reset_and_hazards R270). -/

namespace Sys2Proof.Machine

variable {s s' t : State} {k c : Nat} {cs : List Nat} {m : PulseModule} {w : Nat → Half} {cfg : Config}

/-! ## The lines -/

theorem decodeSignal_reqReport (hm : cfg.pm[k]? = some m) :
    decodeSignal cfg (.port (.reqReport k) 1) = .ok (.opReport k) := by
  simp [decodeSignal, decodePort, Config.hasModule_of_getElem? hm, strobe]

theorem execOpReport_of_idle (hi : s.mstate = .idle) (hm : s.cfg.pm[k]? = some m) :
    execOpReport k s = fullLines k (List.range m.nch) s :=
  (withModule_some hm _).trans (if_pos hi)

/-- One line per channel of the list, in its order, with the held width. -/
theorem fullLines_of_heldWidths (hm : s.cfg.pm[k]? = some m)
    (hw : ∀ c ∈ cs, ∃ x, s.chan? k c = some x ∧ x.lastWidth = w c) :
    fullLines k cs s = .next (s.txEmit (cs.map fun c => reportLine s.cfg kindFull m c (w c)).flatten) := by
  induction cs generalizing s with
  | nil => simp [fullLines, State.txEmit]
  | cons c cs ih =>
    obtain ⟨⟨x, hx, hxw⟩, hrest⟩ := List.forall_mem_cons.1 hw
    have hline : fullLine k c s = .next (s.txEmit (reportLine s.cfg kindFull m c (w c))) := by
      rw [← hxw, ← reportBytes_eol]
      exact fullLine_eq_next.2 ⟨m, x, hm, hx, rfl⟩
    rw [fullLines, hline, andThen_next, ih (s := s.txEmit _) hm hrest]
    simp [State.txEmit]

/-- Settles O14: the strobe's decoding, the request ignored while busy, and the lines of `fullLines_of_heldWidths`. -/
theorem opReportEmitsOneFullLinePerChannel : Obligations.OpReportEmitsOneFullLinePerChannel := by
  intro s k m hm
  refine ⟨decodeSignal_reqReport hm, fun hbusy => ?_, fun w hi hw => ?_⟩
  · exact execOpReport_of_busy hbusy (List.getElem?_eq_some_iff.1 hm).1
  · rw [exec_opReport, execOpReport_of_idle hi hm,
      fullLines_of_heldWidths hm fun c hc => hw c (List.mem_range.1 hc)]
    rfl

/-! ## What a full report shows -/

/-- The two states are the same to a full report of module `k`: configuration, trace and held widths. -/
def SameToReport (k : Nat) (s s' : State) : Prop :=
  s.cfg = s'.cfg ∧ s.tx = s'.tx ∧ ∀ c, (s.chan? k c).map (·.lastWidth) = (s'.chan? k c).map (·.lastWidth)

theorem fullLine_sameToReport (hsame : SameToReport k s s') (h : fullLine k c s = .next t) :
    ∃ t', fullLine k c s' = .next t' ∧ SameToReport k t t' := by
  obtain ⟨hcfg, htx, hw⟩ := hsame
  obtain ⟨m, x, hm, hx, rfl⟩ := fullLine_eq_next.1 h
  obtain ⟨x', hx', hxw⟩ : ∃ x', s'.chan? k c = some x' ∧ x'.lastWidth = x.lastWidth :=
    Option.map_eq_some_iff.1 (by rw [← hw c, hx, Option.map_some])
  refine ⟨_, fullLine_eq_next.2 ⟨m, x', hcfg ▸ hm, hx', rfl⟩, hcfg, ?_, hw⟩
  rw [State.emitLine_tx, State.emitLine_tx, hcfg, htx, hxw]

theorem fullLines_sameToReport (hsame : SameToReport k s s') (h : fullLines k cs s = .next t) :
    ∃ t', fullLines k cs s' = .next t' ∧ SameToReport k t t' := by
  induction cs generalizing s s' with
  | nil => cases h; exact ⟨s', rfl, hsame⟩
  | cons c cs ih =>
    obtain ⟨u, hu, ht⟩ := andThen_eq_next.1 h
    obtain ⟨u', hu', hsame'⟩ := fullLine_sameToReport hsame hu
    obtain ⟨t', ht', hlast⟩ := ih hsame' ht
    exact ⟨t', by rw [fullLines, hu', andThen_next, ht'], hlast⟩

/-- Settles O15: line after line the two states stay the same to the report (`fullLines_sameToReport`). -/
theorem fullReportsRevealOnlyHeldWidths : Obligations.FullReportsRevealOnlyHeldWidths := by
  intro s s' t k hcfg hmstate htx hw h
  obtain ⟨m, hm, -⟩ := withModule_eq_next.1 h
  have hm' : s'.cfg.pm[k]? = some m := hcfg ▸ hm
  by_cases hi : s.mstate = .idle
  · rw [exec_opReport, execOpReport_of_idle hi hm] at h
    obtain ⟨t', ht', -, htx', -⟩ := fullLines_sameToReport ⟨hcfg, htx, hw⟩ h
    exact ⟨t', (execOpReport_of_idle (hmstate ▸ hi) hm').trans ht', htx'.symm⟩
  · cases (execOpReport_of_busy hi (List.getElem?_eq_some_iff.1 hm).1).symm.trans h
    exact ⟨s', execOpReport_of_busy (hmstate ▸ hi) (List.getElem?_eq_some_iff.1 hm').1, htx.symm⟩

end Sys2Proof.Machine
end

section
/-! SUPPORT. The servo commands (44_modules R196 to R198): the bounds check of the index byte in the spec's words, and
each handler as one equation where it writes and one where it drops the frame. -/

namespace Sys2Proof.Machine

variable {s : State} {cfg : Config} {op b val h3 h2 h1 h0 : Byte} {n d3 d2 d1 d0 : Nat} {v : Half}

/-! ## The index byte and the digits -/

theorem idxOk_iff : idxOk cfg b n = true ↔ cfg.indexOffset ≤ b.toNat ∧ b.toNat < cfg.indexOffset + n := by
  simp [idxOk]

theorem idxOk_eq_false_iff :
    idxOk cfg b n = false ↔ b.toNat < cfg.indexOffset ∨ cfg.indexOffset + n ≤ b.toNat := by
  rw [← Bool.not_eq_true, idxOk_iff]
  omega

/-- Four digits, in either case, have a 16-bit value (43_report_encoder R175). -/
theorem hexdec4_of_digits (e3 : DigitOf h3 d3) (e2 : DigitOf h2 d2) (e1 : DigitOf h1 d1) (e0 : DigitOf h0 d0) :
    ∃ v, hexdec4 h3 h2 h1 h0 = some v ∧ v.toNat = 4096 * d3 + 256 * d2 + 16 * d1 + d0 := by
  obtain ⟨n3, hn3, rfl⟩ := digitOf_iff_hexval.1 e3
  obtain ⟨n2, hn2, rfl⟩ := digitOf_iff_hexval.1 e2
  obtain ⟨n1, hn1, rfl⟩ := digitOf_iff_hexval.1 e1
  obtain ⟨n0, hn0, rfl⟩ := digitOf_iff_hexval.1 e0
  exact ⟨_, hexdec4_eq_some.2 ⟨n3, n2, n1, n0, hn3, hn2, hn1, hn0, rfl⟩, joinNibbles_toNat n3 n2 n1 n0⟩

theorem zext16_toNat (b : Byte) : (zext16 b).toNat = b.toNat := by
  have hb := b.isLt
  rw [zext16, BitVec.toNat_setWidth, Nat.mod_eq_of_lt (by omega)]

/-! ## SERVO_RAW -/

theorem servoRawHandler_of_idxOk (h : idxOk s.cfg b s.cfg.nservo = true) :
    servoRawHandler op b val s = .next (ackLine op [b, val] (s.servoWrite (unindex s.cfg b) (zext16 val) false)) :=
  if_pos h

theorem servoRawHandler_of_not_idxOk (h : idxOk s.cfg b s.cfg.nservo = false) :
    servoRawHandler op b val s = .next s :=
  if_neg (by simp [h])

/-- Settles O30: `idxOk` decides between the write of the zero-extended byte and the drop. -/
theorem servoRawWritesAndEchoesOrDrops : Obligations.ServoRawWritesAndEchoesOrDrops := by
  refine fun s b val => ⟨fun hlo hhi => ?writes, fun hout => ?drops⟩
  case writes => exact ⟨zext16 val, zext16_toNat val, servoRawHandler_of_idxOk (idxOk_iff.2 ⟨hlo, hhi⟩)⟩
  case drops => exact servoRawHandler_of_not_idxOk (idxOk_eq_false_iff.2 hout)

/-! ## SERVO_HEX -/

theorem servoHexHandler_of_valid (hb : idxOk s.cfg b s.cfg.nservo = true) (hv : hexdec4 h3 h2 h1 h0 = some v) :
    servoHexHandler op b h3 h2 h1 h0 s =
      .next (ackLine op [b, h3, h2, h1, h0] (s.servoWrite (unindex s.cfg b) v true)) := by
  simp only [servoHexHandler, hb, hv, if_true]

theorem servoHexHandler_of_invalid
    (h : idxOk s.cfg b s.cfg.nservo = false ∨ hexdec4 h3 h2 h1 h0 = none) :
    servoHexHandler op b h3 h2 h1 h0 s = .next s := by
  obtain ⟨-, hstay⟩ | ⟨v, hb, hv, -⟩ := servoHexHandler_cases op b h3 h2 h1 h0 s
  · exact hstay
  · simp [hb, hv] at h

/-- Settles O31: a valid index byte and four digits (`hexdec4_of_digits`) give the write; else one of the two checks
drops the frame. -/
theorem servoHexWritesAndEchoesOrDrops : Obligations.ServoHexWritesAndEchoesOrDrops := by
  intro s b h3 h2 h1 h0
  refine ⟨fun d3 d2 d1 d0 hlo hhi e3 e2 e1 e0 => ?writes, fun hbad => servoHexHandler_of_invalid ?drops⟩
  case writes =>
    obtain ⟨v, hdec, hv⟩ := hexdec4_of_digits e3 e2 e1 e0
    exact ⟨v, hv, servoHexHandler_of_valid (idxOk_iff.2 ⟨hlo, hhi⟩) hdec⟩
  case drops =>
    rw [idxOk_eq_false_iff, or_assoc]
    exact hbad.imp_right (Or.imp_right hexdec4_eq_none)

end Sys2Proof.Machine
end

section
/-! SUPPORT. The registers that each operation may write (10_state R21 to R35; 60_exceptions R232): one lemma says what
an operation can do to the control registers (`exec_controlChange`), one what it can do to a channel
(`exec_channelChange`). -/

namespace Sys2Proof.Machine

variable {s t u : State} {i : Instr} {k c : Nat} {x y : Channel}

/-! ## The operations that only answer to the outside -/

/-- `t` differs from `s` in the output traces and the model's own `result` and `freeCount` at most. -/
def OnlyOutputs (s t : State) : Prop :=
  t = { s with tx := t.tx, servoOut := t.servoOut, result := t.result, freeCount := t.freeCount }

/-- The operations that write neither a channel nor a control register: the servo commands, the lines, the full report
and the codec. -/
def isOutputOp : Instr → Bool
  | .servoRaw .. | .servoHex .. | .changeReport .. | .fullReport .. | .ackServoRaw .. | .ackServoHex ..
  | .opReport _ | .hexdigit _ | .hex2 _ | .hex4 _ | .hex8 _ | .hexval _ | .hexdec4 .. | .txLine _ => true
  | _ => false

theorem runHandler_onlyOutputs {h : Handler} {op : Byte} {p : List Byte} (hr : runHandler h op p s = .next t) :
    OnlyOutputs s t := by
  obtain ⟨lines, ws, n, -, e⟩ := runHandler_cases h op p s
  cases e.symm.trans hr
  rfl

theorem exec_onlyOutputs (hi : isOutputOp i = true) (h : exec i s = .next t) : OnlyOutputs s t := by
  cases i <;> cases hi
  case servoRaw b v => exact runHandler_onlyOutputs (h := .servoRaw) (p := [b, v]) h
  case servoHex b h3 h2 h1 h0 => exact runHandler_onlyOutputs (h := .servoHex) (p := [b, h3, h2, h1, h0]) h
  case changeReport k c w =>
    obtain ⟨m, -, -, rfl⟩ := changeLine_eq_next.1 h
    rfl
  case fullReport k c =>
    obtain ⟨m, x, -, -, rfl⟩ := fullLine_eq_next.1 h
    rfl
  case opReport k =>
    obtain ⟨lines, rfl⟩ := execOpReport_eq_next h
    rfl
  all_goals cases h; rfl

/-! ## The control registers -/

/-- The control registers: `TIMER`, the dispatcher's registers, `mstate` and `rxq` (10_state R26, R29 to R35). -/
structure Control where
  timer : Nat
  dstate : DState
  cur : Nat
  cnt : Nat
  buf : List Byte
  frameT0 : Nat
  mstate : MState
  rxq : List Byte

/-- The values that the control registers have in `s`. -/
def State.control (s : State) : Control where
  timer := s.timer
  dstate := s.dstate
  cur := s.cur
  cnt := s.cnt
  buf := s.buf
  frameT0 := s.frameT0
  mstate := s.mstate
  rxq := s.rxq

theorem State.control_eq_iff : t.control = s.control ↔
    t.timer = s.timer ∧ t.dstate = s.dstate ∧ t.cur = s.cur ∧ t.cnt = s.cnt ∧ t.buf = s.buf ∧
      t.frameT0 = s.frameT0 ∧ t.mstate = s.mstate ∧ t.rxq = s.rxq := by
  simp [State.control]

theorem OnlyOutputs.control_eq (h : OnlyOutputs s t) : t.control = s.control := by
  rw [h]
  rfl

theorem observeChannel_control (h : observeChannel k c s = .next t) : t.control = s.control := by
  rw [observeChannel_frame h]
  rfl

/-- The eight ways of an operation with the control registers: they stay; the tick; a byte received; the oldest byte
taken, to be dropped, to begin a frame or into `buf`; the dispatcher set free; the sequencer moved. -/
inductive ControlChange (s t : State) : Instr → Prop
  | same (i : Instr) : t.control = s.control → ControlChange s t i
  | tick : t.control = State.control { s with timer := incWrap s.cfg.tsw s.timer } → ControlChange s t .timerTick
  | received (b : Byte) : t.control = (s.rxPush b).control → ControlChange s t (.rxByte b)
  | dropped (b : Byte) (rest : List Byte) (i : Instr) : i = .opDispatch ∨ i = .unregistered b → s.rxq = b :: rest →
      t.control = State.control { s with rxq := rest } → ControlChange s t i
  | begun (b : Byte) (rest : List Byte) (n : Nat) (e : RegEntry) : s.rxq = b :: rest → lookup s.cfg b = some (n, e) →
      t.control = (beginFrame n e { s with rxq := rest }).control → ControlChange s t .opDispatch
  | stored (b : Byte) (rest : List Byte) (d : DState) : s.rxq = b :: rest →
      t.control = State.control { s with rxq := rest, buf := s.buf.set s.cnt b, cnt := s.cnt + 1, dstate := d } →
      ControlChange s t .payloadByte
  | freed (i : Instr) : i = .frameTimeout ∨ i = .dispatchExec →
      t.control = (s.setMain .awaitingOpcode .idle).control → ControlChange s t i
  | moved (m : MState) (i : Instr) : (∃ k, i = .opUpdate k) ∨ i = .updateStep →
      t.control = State.control { s with mstate := m } → ControlChange s t i

theorem exec_controlChange (h : exec i s = .next t) (hi : i ≠ .reset) : ControlChange s t i := by
  cases i
  case reset => exact absurd rfl hi
  case timerTick =>
    cases h
    exact .tick rfl
  case rise k c =>
    obtain ⟨x, -, rfl⟩ := execRise_eq_next.1 h
    exact .same _ rfl
  case fall k c =>
    obtain ⟨x, -, rfl⟩ := execFall_eq_next.1 h
    exact .same _ rfl
  case poll k c =>
    obtain ⟨x, -, ⟨-, rfl⟩ | ⟨-, rfl⟩⟩ := execPoll_eq_next.1 h <;> exact .same _ rfl
  case updateChannel k c => exact .same _ (observeChannel_control h)
  case rxByte d =>
    obtain ⟨-, e⟩ | ⟨-, e⟩ := execRxByte_cases d s <;> cases e.symm.trans h
    · exact .received d rfl
    · exact .same _ rfl
  case unregistered b =>
    obtain e | ⟨rest, -, hr, -, e⟩ := execUnregistered_cases b s <;> cases e.symm.trans h
    · exact .same _ rfl
    · exact .dropped b rest _ (.inr rfl) hr rfl
  case opDispatch =>
    obtain ⟨-, e⟩ | ⟨b, rest, -, hr, -, e⟩ | ⟨b, rest, n, e', -, hr, hl, e⟩ := execOpDispatch_cases s <;>
      cases e.symm.trans h
    · exact .same _ rfl
    · exact .dropped b rest _ (.inl rfl) hr rfl
    · exact .begun b rest n e' hr hl rfl
  case payloadByte =>
    obtain rfl | ⟨b, rest, e, -, hr, -, rfl⟩ := execPayloadByte_eq_next h
    · exact .same _ rfl
    · exact .stored b rest _ hr rfl
  case frameTimeout =>
    obtain ⟨-, e⟩ | ⟨-, e⟩ := execFrameTimeout_cases s <;> cases e.symm.trans h
    · exact .freed _ (.inl rfl) rfl
    · exact .same _ rfl
  case dispatchExec =>
    obtain rfl | ⟨e, u, -, -, hu, rfl⟩ := execDispatchExec_eq_next h
    · exact .same _ rfl
    · rw [runHandler_onlyOutputs hu]
      exact .freed _ (.inr rfl) rfl
  case opUpdate k =>
    obtain ⟨m, -, ⟨-, rfl⟩ | ⟨-, rfl⟩⟩ := execOpUpdate_eq_next.1 h
    · exact .same _ rfl
    · exact .moved (.inUpdate k 0) _ (.inl ⟨k, rfl⟩) rfl
  case updateStep =>
    obtain rfl | ⟨k, c, u, m, -, hu, -, rfl⟩ := execUpdateStep_eq_next h
    · exact .same _ rfl
    · rw [observeChannel_frame hu]
      exact .moved _ _ (.inr rfl) rfl
  all_goals exact .same _ (exec_onlyOutputs rfl h).control_eq

/-- Settles O44: each way of `exec_controlChange` names its operations, and leaves the registers it does not write. -/
theorem controlRegistersHaveOnlyTheirWriters : Obligations.ControlRegistersHaveOnlyTheirWriters := by
  intro i s t h hi
  cases exec_controlChange h hi with
  | same _ hc => simp [State.control_eq_iff.1 hc]
  | tick hc => simp [State.control_eq_iff.1 hc]
  | received b hc => simp [State.control_eq_iff.1 hc]
  | dropped b rest _ hop hr hc => obtain rfl | rfl := hop <;> simp [State.control_eq_iff.1 hc, hr]
  | begun b rest n e hr _ hc => simp [State.control_eq_iff.1 hc, hr]
  | stored b rest d hr hc => simp [State.control_eq_iff.1 hc, hr]
  | freed _ hop hc => obtain rfl | rfl := hop <;> simp [State.control_eq_iff.1 hc]
  | moved m _ hop hc => obtain ⟨k, rfl⟩ | rfl := hop <;> simp [State.control_eq_iff.1 hc]

theorem exec_keeps_timer (h : exec i s = .next t) (hi : i ≠ .reset) (htick : i ≠ .timerTick) :
    t.timer = s.timer := by
  obtain ⟨htimer, -⟩ := controlRegistersHaveOnlyTheirWriters i s t h hi
  by_contra hne
  exact htick (htimer hne)

/-! ## The registers of a channel -/

/-- The four ways of an operation with a channel that reads `x` before it and `y` after it: it stays; it is stamped by
its RISE or its FALL; a poll takes its sample. -/
inductive ChannelChange (s : State) (k c : Nat) (x : Channel) : Instr → Channel → Prop
  | same (i : Instr) : ChannelChange s k c x i x
  | rise : ChannelChange s k c x (.rise k c) (x.stampRise s.timer)
  | fall : ChannelChange s k c x (.fall k c) (x.stampFall s.timer)
  | polled (i : Instr) : PollsChannel i s k c → x.hasNew = true →
      ChannelChange s k c x i { x with hasNew := false, lastWidth := x.width s.cfg }

theorem channelChange_of_sameChannel (hx : s.chan? k c = some x) (hy : t.chan? k c = some y)
    (h : t.chan? k c = s.chan? k c) : ChannelChange s k c x i y := by
  cases hx.symm.trans (h.symm.trans hy)
  exact .same i

/-- What UPDATE_CHANNEL of (`k'`, `c'`), run for operation `i`, does to a channel. -/
theorem observeChannel_channelChange {k' c' : Nat} (h : observeChannel k' c' s = .next t)
    (hx : s.chan? k c = some x) (hy : t.chan? k c = some y)
    (hi : (k', c') = (k, c) → PollsChannel i s k c) : ChannelChange s k c x i y := by
  by_cases hne : (k, c) = (k', c')
  · cases hne
    have hpolls : PollsChannel i s k c := hi rfl
    obtain ⟨z, hz, hcase⟩ := observeChannel_eq_next.1 h
    cases hx.symm.trans hz
    obtain ⟨-, rfl⟩ | ⟨hn, -, rfl⟩ | ⟨hn, -, m, -, -, rfl⟩ := hcase
    · exact channelChange_of_sameChannel hx hy rfl
    · cases (State.chan?_setChan_self hx).symm.trans hy
      exact .polled i hpolls hn
    · cases (State.chan?_setChan_self hx).symm.trans hy
      exact .polled i hpolls hn
  · exact channelChange_of_sameChannel hx hy (exec_keeps_otherChannel hne .updateChannel h).1

theorem exec_channelChange (h : exec i s = .next t) (hx : s.chan? k c = some x) (hy : t.chan? k c = some y)
    (hi : i ≠ .reset) : ChannelChange s k c x i y := by
  have keeps (hch : t.chan? k c = s.chan? k c) : ChannelChange s k c x i y := channelChange_of_sameChannel hx hy hch
  cases i
  case reset => exact absurd rfl hi
  case rise k' c' =>
    by_cases hne : (k, c) = (k', c')
    · cases hne
      obtain ⟨z, hz, rfl⟩ := execRise_eq_next.1 h
      cases hx.symm.trans hz
      cases (State.chan?_setChan_self hx).symm.trans hy
      exact .rise
    · exact keeps (exec_keeps_otherChannel hne .rise h).1
  case fall k' c' =>
    by_cases hne : (k, c) = (k', c')
    · cases hne
      obtain ⟨z, hz, rfl⟩ := execFall_eq_next.1 h
      cases hx.symm.trans hz
      cases (State.chan?_setChan_self hx).symm.trans hy
      exact .fall
    · exact keeps (exec_keeps_otherChannel hne .fall h).1
  case poll k' c' =>
    by_cases hne : (k, c) = (k', c')
    · cases hne
      obtain ⟨z, hz, ⟨-, rfl⟩ | ⟨hn, rfl⟩⟩ := execPoll_eq_next.1 h <;> cases hx.symm.trans hz
      · exact keeps rfl
      · cases (State.chan?_setChan_self hx).symm.trans hy
        exact .polled _ (.inl rfl) hn
    · exact keeps (exec_keeps_otherChannel hne .poll h).1
  case updateChannel k' c' =>
    exact observeChannel_channelChange h hx hy fun e => by cases e; exact .inr (.inl rfl)
  case updateStep =>
    obtain rfl | ⟨k', c', u, m, hm, hu, -, rfl⟩ := execUpdateStep_eq_next h
    · exact keeps rfl
    · exact observeChannel_channelChange hu hx hy fun e => by cases e; exact .inr (.inr ⟨rfl, hm⟩)
  case timerTick => cases h; exact keeps rfl
  case rxByte d => obtain ⟨-, e⟩ | ⟨-, e⟩ := execRxByte_cases d s <;> cases e.symm.trans h <;> exact keeps rfl
  case unregistered b =>
    obtain e | ⟨rest, -, -, -, e⟩ := execUnregistered_cases b s <;> cases e.symm.trans h <;> exact keeps rfl
  case opDispatch =>
    obtain ⟨-, e⟩ | ⟨b, rest, -, -, -, e⟩ | ⟨b, rest, n, e', -, -, -, e⟩ := execOpDispatch_cases s <;>
      cases e.symm.trans h <;> exact keeps rfl
  case payloadByte => obtain rfl | ⟨b, rest, e, -, -, -, rfl⟩ := execPayloadByte_eq_next h <;> exact keeps rfl
  case frameTimeout =>
    obtain ⟨-, e⟩ | ⟨-, e⟩ := execFrameTimeout_cases s <;> cases e.symm.trans h <;> exact keeps rfl
  case dispatchExec =>
    obtain rfl | ⟨e, u, -, -, hu, rfl⟩ := execDispatchExec_eq_next h
    · exact keeps rfl
    · exact keeps (by rw [runHandler_onlyOutputs hu]; rfl)
  case opUpdate k => obtain ⟨m, -, ⟨-, rfl⟩ | ⟨-, rfl⟩⟩ := execOpUpdate_eq_next.1 h <;> exact keeps rfl
  all_goals exact keeps (by rw [exec_onlyOutputs rfl h]; rfl)

/-- Settles O43, from the four ways of `exec_channelChange`. -/
theorem channelRegistersHaveOnlyTheirWriters : Obligations.ChannelRegistersHaveOnlyTheirWriters := by
  intro i s t k c x y h hx hy hi
  cases exec_channelChange h hx hy hi with
  | same => simp +contextual
  | rise => simp
  | fall => simp
  | polled _ hpolls hn => simp [hpolls, hn]

end Sys2Proof.Machine
end

section
/-! SUPPORT. The configuration that 60_exceptions R225 refuses. -/

namespace Sys2Proof.Machine

/-- Settles O53: two positions with one opcode are against `Config.opcodes_nodup`, so the configuration is not well
formed, and the step refuses it. -/
theorem duplicateOpcodeIsRefused : Obligations.DuplicateOpcodeIsRefused := by
  intro s i j e e' hne hi hj hop
  have hwf : ¬ s.cfg.wf = true := fun hwf => by
    obtain ⟨hlt, -⟩ := List.getElem?_eq_some_iff.1 hi
    have hsame : (s.cfg.reg.map (·.opcode))[i]? = (s.cfg.reg.map (·.opcode))[j]? := by
      rw [List.getElem?_map, List.getElem?_map, hi, hj, Option.map_some, Option.map_some, hop]
    exact hne ((List.getElem?_inj (by simpa using hlt) (Config.opcodes_nodup hwf)).1 hsame)
  exact if_neg hwf

end Sys2Proof.Machine
end

section
/-! SUPPORT. Every well-formed operation answers a next state in every state of the block (70_reset_and_hazards R272),
and so does every sequence of them. -/

namespace Sys2Proof.Machine

variable {s t : State} {i : Instr} {is : List Instr} {k c : Nat} {m : PulseModule} {x : Channel}

/-- The full report of a module answers a next state: all its channels are there. -/
theorem State.ShapeOk.exists_fullLines (hs : s.ShapeOk) (hm : s.cfg.pm[k]? = some m) :
    ∃ t, fullLines k (List.range m.nch) s = .next t := by
  refine ⟨_, fullLines_of_heldWidths (w := fun c => ((s.chan? k c).map (·.lastWidth)).getD 0) hm fun c hc => ?_⟩
  obtain ⟨x, hx⟩ := hs.exists_chan? (Config.hasChannel_iff.2 ⟨m, hm, List.mem_range.1 hc⟩)
  exact ⟨x, hx, by simp [hx]⟩

theorem State.Inv.exists_exec (hs : s.Inv) (hi : i.wf s.cfg = true) : ∃ t, exec i s = .next t := by
  cases i
  case servoRaw b v =>
    obtain ⟨lines, ws, n, -, e⟩ := runHandler_cases .servoRaw opServoRaw [b, v] s
    exact ⟨_, e⟩
  case servoHex b h3 h2 h1 h0 =>
    obtain ⟨lines, ws, n, -, e⟩ := runHandler_cases .servoHex s.cfg.opServoHex [b, h3, h2, h1, h0] s
    exact ⟨_, e⟩
  case unregistered b => obtain e | ⟨rest, -, -, -, e⟩ := execUnregistered_cases b s <;> exact ⟨_, e⟩
  case changeReport k c w =>
    obtain ⟨m, hm, hc⟩ := Config.hasChannel_iff.1 hi
    exact ⟨_, changeLine_eq_next.2 ⟨m, hm, hc, rfl⟩⟩
  case fullReport k c =>
    obtain ⟨m, hm, -⟩ := Config.hasChannel_iff.1 hi
    obtain ⟨x, hx⟩ := hs.shape.exists_chan? hi
    exact ⟨_, fullLine_eq_next.2 ⟨m, x, hm, hx, rfl⟩⟩
  case timerTick | rise | fall | rxByte | poll =>
    obtain ⟨t, ht, -⟩ := exec_sampleOp hs.shape rfl hi
    exact ⟨t, ht⟩
  case opDispatch =>
    obtain ⟨-, e⟩ | ⟨b, rest, -, -, -, e⟩ | ⟨b, rest, n, e', -, -, -, e⟩ := execOpDispatch_cases s <;> exact ⟨_, e⟩
  case opUpdate k =>
    have hk : k < s.cfg.pm.length := of_decide_eq_true hi
    by_cases hm : s.mstate = .idle
    · exact ⟨_, execOpUpdate_eq_next.2 ⟨_, List.getElem?_eq_getElem hk, .inr ⟨hm, rfl⟩⟩⟩
    · exact ⟨_, execOpUpdate_of_busy hm hk⟩
  case opReport k =>
    have hk : k < s.cfg.pm.length := of_decide_eq_true hi
    by_cases hm : s.mstate = .idle
    · rw [exec_opReport, execOpReport_of_idle hm (List.getElem?_eq_getElem hk)]
      exact hs.shape.exists_fullLines (List.getElem?_eq_getElem hk)
    · exact ⟨_, execOpReport_of_busy hm hk⟩
  case payloadByte =>
    obtain ⟨hcur, -⟩ := hs.frame
    by_cases hd : s.dstate = .awaitingPayload
    · cases hr : s.rxq with
      | nil => exact ⟨_, execPayloadByte_of_not_enabled (.inr hr)⟩
      | cons b rest => exact ⟨_, execPayloadByte_of_enabled hd hr (List.getElem?_eq_getElem hcur)⟩
    · exact ⟨_, execPayloadByte_of_not_enabled (.inl hd)⟩
  case frameTimeout => obtain ⟨-, e⟩ | ⟨-, e⟩ := execFrameTimeout_cases s <;> exact ⟨_, e⟩
  case dispatchExec =>
    obtain ⟨hcur, -⟩ := hs.frame
    by_cases hd : s.dstate = .dispatching
    · obtain ⟨u, -, e⟩ := execDispatchExec_runs hd (List.getElem?_eq_getElem hcur) rfl
      exact ⟨_, e⟩
    · exact ⟨_, execDispatchExec_of_not_dispatching hd⟩
  case updateStep =>
    by_cases hin : ∃ k c, s.mstate = .inUpdate k c
    · obtain ⟨k, c, hkc⟩ := hin
      have hchan := hs.update k c hkc
      obtain ⟨m, hm, hc⟩ := Config.hasChannel_iff.1 hchan
      obtain ⟨x, hx⟩ := hs.shape.exists_chan? hchan
      obtain ⟨u, hu⟩ := exists_observeChannel hx hm hc
      exact ⟨_, execUpdateStep_of_inUpdate hkc hu hm⟩
    · exact ⟨_, execUpdateStep_of_not_inUpdate fun k c hkc => hin ⟨k, c, hkc⟩⟩
  case updateChannel k c =>
    obtain ⟨m, hm, hc⟩ := Config.hasChannel_iff.1 hi
    obtain ⟨x, hx⟩ := hs.shape.exists_chan? hi
    exact exists_observeChannel hx hm hc
  all_goals exact ⟨_, rfl⟩

/-! ## Sequences of operations -/

theorem State.Inv.exists_execAll (hs : s.Inv) (hi : ∀ i ∈ is, i.wf s.cfg = true) : ∃ t, execAll is s = .next t := by
  induction is generalizing s with
  | nil => exact ⟨s, rfl⟩
  | cons i is ih =>
    obtain ⟨hfirst, hrest⟩ := List.forall_mem_cons.1 hi
    obtain ⟨u, hu⟩ := hs.exists_exec hfirst
    obtain ⟨t, ht⟩ := ih (exec_keeps_inv hs hu) (exec_keeps_cfg hu ▸ hrest)
    exact ⟨t, andThen_eq_next.2 ⟨u, hu, ht⟩⟩

theorem execAll_keeps_cfg (h : execAll is s = .next t) : t.cfg = s.cfg := by
  induction is generalizing s with
  | nil => cases h; rfl
  | cons i is ih =>
    obtain ⟨u, hu, ht⟩ := andThen_eq_next.1 h
    rw [ih ht, exec_keeps_cfg hu]

theorem execAll_keeps_timer (h : execAll is s = .next t) (hi : ∀ i ∈ is, i ≠ .reset ∧ i ≠ .timerTick) :
    t.timer = s.timer := by
  induction is generalizing s with
  | nil => cases h; rfl
  | cons i is ih =>
    obtain ⟨u, hu, ht⟩ := andThen_eq_next.1 h
    obtain ⟨⟨hreset, htick⟩, hrest⟩ := List.forall_mem_cons.1 hi
    rw [ih ht hrest, exec_keeps_timer hu hreset htick]

theorem execAll_withPending (is : List Instr) (s : State) (p : List Signal) :
    execAll is (s.withPending p) = withPending p (execAll is s) := by
  induction is generalizing s with
  | nil => rfl
  | cons i is ih => exact andThen_withPending (exec_withPending i) ih

/-- The steps with signals pending are the operations that they decode to, one after the other. -/
theorem run_of_pending {gs : List Signal} (hwf : s.cfg.wf = true) (hd : gs.map (decodeSignal s.cfg) = is.map .ok)
    (h : execAll is s = .next t) :
    Host.Core.run Sys2Proof.core is.length (s.withPending gs) = .next (t.withPending []) := by
  induction is generalizing s gs with
  | nil =>
    obtain rfl : gs = [] := List.map_eq_nil_iff.1 hd
    cases h
    rfl
  | cons i is ih =>
    obtain ⟨g, gs, rfl, hg, hgs⟩ := List.map_eq_cons_iff.1 hd
    obtain ⟨u, hu, ht⟩ := andThen_eq_next.1 h
    have hcfg : u.cfg = s.cfg := exec_keeps_cfg hu
    have hstep : step (s.withPending (g :: gs)) = .next (u.withPending gs) := by
      rw [← withPending_next, ← hu, ← exec_withPending]
      exact step_of_decoded (s := s.withPending _) hwf (State.fetch_of_pending_cons rfl) hg
    rw [List.length_cons, run_succ_of_step _ hstep]
    exact ih (hcfg ▸ hwf) (hcfg ▸ hgs) ht

end Sys2Proof.Machine
end

section
/-! SUPPORT. One clock cycle (60_exceptions R229, log 21): its signals decode to its operations in the serial order
(`map_decodeSignal_serialise`), and what those operations leave (`execAll_cycleOps`). -/

namespace Sys2Proof.Machine

variable {s t : State} {x : CycleInputs} {cfg : Config} {k c n : Nat} {ps rises falls : List (Nat × Nat)}
  {main : List Instr} {z : Channel}

/-! ## The channels of the block in order -/

theorem mem_channelsFrom {ms : List PulseModule} {p : Nat × Nat} :
    p ∈ channelsFrom n ms ↔ ∃ j m, ms[j]? = some m ∧ p.1 = n + j ∧ p.2 < m.nch := by
  induction ms generalizing n with
  | nil => simp [channelsFrom]
  | cons m ms ih =>
    rw [channelsFrom, List.mem_append, ih]
    constructor
    · rintro (h | ⟨j, m', hm', hk, hc⟩)
      · obtain ⟨c, hc, rfl⟩ := List.mem_map.1 h
        exact ⟨0, m, rfl, rfl, List.mem_range.1 hc⟩
      · exact ⟨j + 1, m', hm', by omega, hc⟩
    · rintro ⟨_ | j, m', hm', hk, hc⟩
      · cases hm'
        exact .inl (List.mem_map.2 ⟨p.2, List.mem_range.2 hc, Prod.ext hk.symm rfl⟩)
      · exact .inr ⟨j, m', hm', by omega, hc⟩

theorem mem_allChannels {p : Nat × Nat} : p ∈ allChannels cfg ↔ cfg.hasChannel p.1 p.2 = true := by
  rw [allChannels, mem_channelsFrom, Config.hasChannel_iff]
  simp only [Nat.zero_add]
  constructor
  · rintro ⟨j, m, hm, hk, hc⟩
    exact ⟨m, hk ▸ hm, hc⟩
  · rintro ⟨m, hm, hc⟩
    exact ⟨p.1, m, hm, rfl, hc⟩

theorem channelsFrom_ascending (n : Nat) (ms : List PulseModule) :
    (channelsFrom n ms).Pairwise fun p q => p.1 < q.1 ∨ (p.1 = q.1 ∧ p.2 < q.2) := by
  induction ms generalizing n with
  | nil => exact .nil
  | cons m ms ih =>
    refine List.pairwise_append.2 ⟨?_, ih (n + 1), fun p hp q hq => .inl ?_⟩
    · exact List.pairwise_map.2 (List.pairwise_lt_range.imp fun hlt => .inr ⟨rfl, hlt⟩)
    · obtain ⟨c, -, rfl⟩ := List.mem_map.1 hp
      obtain ⟨j, m', -, hk, -⟩ := mem_channelsFrom.1 hq
      rw [hk]
      exact Nat.lt_of_succ_le (Nat.le_add_right ..)

/-- The channels of the block among `strobes`, in the order of `allChannels`. -/
def strobed (cfg : Config) (strobes : List (Nat × Nat)) : List (Nat × Nat) :=
  (allChannels cfg).filter (strobes.contains ·)

theorem mem_strobed {p : Nat × Nat} : p ∈ strobed cfg ps ↔ cfg.hasChannel p.1 p.2 = true ∧ p ∈ ps := by
  simp only [strobed, List.mem_filter, mem_allChannels, List.contains_iff_mem]

theorem strobed_edgesInOrder (cfg : Config) (ps : List (Nat × Nat)) : EdgesInOrder cfg ps (strobed cfg ps) :=
  ⟨(channelsFrom_ascending 0 cfg.pm).filter _, fun _ => mem_strobed⟩

/-! ## The main context's operation -/

/-- The operation of the first harness request of a cycle. -/
def firstRequestOps (cfg : Config) (x : CycleInputs) : List Instr :=
  ((if x.reqDispatch then [Instr.opDispatch] else []) ++
    ((List.range cfg.pm.length).filter (x.reqUpdate.contains ·)).map Instr.opUpdate ++
    ((List.range cfg.pm.length).filter (x.reqReport.contains ·)).map Instr.opReport).take 1

/-- The main context's operation of a cycle. -/
def State.mainOps (s : State) (x : CycleInputs) : List Instr :=
  if s.busy then (if x.micro then s.enabledMicro.toList.map MicroStep.instr else []) else firstRequestOps s.cfg x

theorem State.busy_iff : s.busy = true ↔ s.mstate ≠ .idle := by simp [State.busy]

/-- The requested numbers below `n` begin with the least one. -/
theorem filter_range_eq_cons {ks : List Nat} (hk : k < n) (hmem : k ∈ ks) (hleast : ∀ j, j < k → j ∉ ks) :
    ∃ more, (List.range n).filter (ks.contains ·) = k :: more := by
  rw [← List.head?_eq_some_iff, List.head?_filter, List.find?_range_eq_some]
  simpa [hmem, hk] using hleast

theorem filter_range_eq_nil {ks : List Nat} (hno : ∀ j, j < n → j ∉ ks) :
    (List.range n).filter (ks.contains ·) = [] := by
  simpa [List.filter_eq_nil_iff] using hno

theorem mainOps_cycleMain (s : State) (x : CycleInputs) : CycleMain s x (s.mainOps x) := by
  refine ⟨fun hbusy => if_pos (State.busy_iff.2 hbusy), fun hidle hd => ?dispatch,
    fun hidle hd => ⟨fun k hk hmem hleast => ?update, fun hno => ⟨fun k hk hmem hleast => ?report, fun hno' => ?none⟩⟩⟩
  all_goals
    have hfree : s.mainOps x = firstRequestOps s.cfg x := if_neg fun hbusy => State.busy_iff.1 hbusy hidle
    rw [hfree, firstRequestOps, hd]
  case dispatch => rfl
  case update =>
    obtain ⟨more, hfirst⟩ := filter_range_eq_cons hk hmem hleast
    rw [hfirst]
    rfl
  case report =>
    obtain ⟨more, hfirst⟩ := filter_range_eq_cons hk hmem hleast
    rw [filter_range_eq_nil hno, hfirst]
    rfl
  case none =>
    rw [filter_range_eq_nil hno, filter_range_eq_nil hno']
    rfl

/-- The main context neither resets the block nor counts its timer. -/
theorem ne_of_mem_mainOps {i : Instr} (h : i ∈ s.mainOps x) : i ≠ .reset ∧ i ≠ .timerTick := by
  unfold State.mainOps at h
  split at h
  · split at h
    · obtain ⟨m, -, rfl⟩ := List.mem_map.1 h
      cases m <;> simp [MicroStep.instr]
    · cases h
  · have hrequest := List.mem_of_mem_take h
    simp only [List.mem_append, List.mem_ite_nil_right, List.mem_singleton, List.mem_map] at hrequest
    obtain (⟨-, rfl⟩ | ⟨k, -, rfl⟩) | ⟨k, -, rfl⟩ := hrequest <;> simp

/-! ## The signals of a cycle -/

/-- The strobes of a list of ports, each decoded. -/
theorem map_decodeSignal_strobes {α : Type} {as : List α} {port : α → Port} {op : α → Instr}
    (h : ∀ a ∈ as, decodeSignal cfg (.port (port a) 1) = .ok (op a)) :
    (as.map fun a => Signal.port (port a) 1).map (decodeSignal cfg) = (as.map op).map .ok := by
  rw [List.map_map, List.map_map]
  exact List.map_congr_left h

/-- The requests of a list of modules, each decoded. -/
theorem map_decodeSignal_requests {port : Nat → Port} {op : Nat → Instr} (ks : List Nat)
    (h : ∀ {k m}, cfg.pm[k]? = some m → decodeSignal cfg (.port (port k) 1) = .ok (op k)) :
    (((List.range cfg.pm.length).filter (ks.contains ·)).map fun k => Signal.port (port k) 1).map (decodeSignal cfg) =
      (((List.range cfg.pm.length).filter (ks.contains ·)).map op).map .ok :=
  map_decodeSignal_strobes fun _ hk => h (List.getElem?_eq_getElem (List.mem_range.1 (List.mem_of_mem_filter hk)))

theorem map_decodeSignal_mainSignals (s : State) (x : CycleInputs) :
    (s.mainSignals x).map (decodeSignal s.cfg) = (s.mainOps x).map .ok := by
  have hupdate := map_decodeSignal_requests x.reqUpdate (decodeSignal_reqUpdate (cfg := s.cfg))
  have hreport := map_decodeSignal_requests x.reqReport (decodeSignal_reqReport (cfg := s.cfg))
  unfold State.mainSignals State.mainOps
  split
  · split
    · cases s.enabledMicro <;> rfl
    · rfl
  · rw [firstRequest, firstRequestOps, List.map_take, List.map_take]
    simp only [List.map_append, hupdate, hreport]
    cases x.reqDispatch <;> rfl

theorem map_decodeSignal_serialise (s : State) (hx : x.rst = false) :
    (s.serialise x).map (decodeSignal s.cfg) =
      (cycleOps s x (s.mainOps x) (strobed s.cfg x.rise) (strobed s.cfg x.fall)).map .ok := by
  have hrises : ((strobed s.cfg x.rise).map fun p => Signal.port (.edgeRise p.1 p.2) 1).map (decodeSignal s.cfg) =
      ((strobed s.cfg x.rise).map fun p => Instr.rise p.1 p.2).map .ok :=
    map_decodeSignal_strobes fun _ hp => decodeSignal_edgeRise (mem_strobed.1 hp).1
  have hfalls : ((strobed s.cfg x.fall).map fun p => Signal.port (.edgeFall p.1 p.2) 1).map (decodeSignal s.cfg) =
      ((strobed s.cfg x.fall).map fun p => Instr.fall p.1 p.2).map .ok :=
    map_decodeSignal_strobes fun _ hp => decodeSignal_edgeFall (mem_strobed.1 hp).1
  have hbyte (d : Byte) : decodeSignal s.cfg (.port .rx (256 + d.toNat)) = .ok (.rxByte d) := decodePort_rx s.cfg d
  rw [strobed] at hrises hfalls
  simp only [State.serialise, hx, cycleOps, strobed, List.map_append, map_decodeSignal_mainSignals, hrises, hfalls,
    Bool.false_eq_true, if_false]
  congr 1
  · cases x.rx <;> cases s.rxReady <;> simp [hbyte]
  · cases x.tick <;> rfl

/-- The operations of a cycle are well formed: each is the decoding of a signal. -/
theorem wf_of_mem_cycleOps {i : Instr} (hx : x.rst = false)
    (h : i ∈ cycleOps s x (s.mainOps x) (strobed s.cfg x.rise) (strobed s.cfg x.fall)) : i.wf s.cfg = true := by
  have hmem := List.mem_map_of_mem (f := Except.ok (ε := DecodeError)) h
  rw [← map_decodeSignal_serialise s hx] at hmem
  obtain ⟨g, -, hg⟩ := List.mem_map.1 hmem
  exact decodeSignal_wf hg

/-! ## What the operations of a cycle leave -/

/-- A batch of edges stamps each of its channels with the timer, and leaves the others. -/
theorem execAll_edges {edge : Nat → Nat → Instr} {stamp : Nat → Channel → Channel}
    (hedge : ∀ {s t : State} {k c : Nat}, exec (edge k c) s = .next t →
      ∃ y, s.chan? k c = some y ∧ t = s.setChan k c (stamp s.timer y))
    (hstamp : ∀ n y, stamp n (stamp n y) = stamp n y)
    (h : execAll (ps.map fun p => edge p.1 p.2) s = .next t) (hz : t.chan? k c = some z) :
    ∃ y, s.chan? k c = some y ∧ z = if (k, c) ∈ ps then stamp s.timer y else y := by
  induction ps generalizing s with
  | nil =>
    cases h
    exact ⟨z, hz, rfl⟩
  | cons p ps ih =>
    obtain ⟨u, hu, ht⟩ := andThen_eq_next.1 h
    obtain ⟨y, hy, rfl⟩ := hedge hu
    obtain ⟨y', hy', rfl⟩ := ih ht
    rw [State.setChan_timer]
    by_cases hp : (k, c) = p
    · subst hp
      cases (State.chan?_setChan_self hy).symm.trans hy'
      exact ⟨y, hy, by simp [hstamp]⟩
    · rw [State.chan?_setChan_ne hp] at hy'
      exact ⟨y', hy', by simp [hp]⟩

theorem execAll_rxBytes_keeps_channels {ds : List Byte} (h : execAll (ds.map .rxByte) s = .next t) :
    t.chan? k c = s.chan? k c := by
  induction ds generalizing s with
  | nil => cases h; rfl
  | cons d ds ih =>
    obtain ⟨u, hu, ht⟩ := andThen_eq_next.1 h
    rw [ih ht]
    exact exec_sampleOp_keeps_channel (i := .rxByte d) rfl hu (by simp) (by simp) (by simp)

/-- The timer counts the tick, and a channel of the end was stamped with the timer before it by the cycle's edges,
its FALL after its RISE. -/
theorem execAll_cycleOps (hmain : ∀ i ∈ main, i ≠ .reset ∧ i ≠ .timerTick)
    (h : execAll (cycleOps s x main rises falls) s = .next t) :
    t.timer = (if x.tick then (s.timer + 1) % 2 ^ s.cfg.tsw else s.timer) ∧
      ∀ k c z, t.chan? k c = some z → ∃ y y' : Channel,
        y' = (if (k, c) ∈ rises then y.stampRise s.timer else y) ∧
        z = (if (k, c) ∈ falls then y'.stampFall s.timer else y') := by
  have hbytes : (if s.rxReady then x.rx.toList.map Instr.rxByte else []) =
      (if s.rxReady then x.rx.toList else []).map Instr.rxByte := by split <;> rfl
  simp only [cycleOps, hbytes, execAll_append, andThen_eq_next] at h
  obtain ⟨u4, ⟨u3, ⟨u2, ⟨u1, h1, h2⟩, h3⟩, h4⟩, h5⟩ := h
  have ht1 : u1.timer = s.timer := execAll_keeps_timer h1 hmain
  have ht2 : u2.timer = u1.timer := execAll_keeps_timer h2 (List.forall_mem_map.2 fun _ _ => ⟨nofun, nofun⟩)
  have ht3 : u3.timer = u2.timer := execAll_keeps_timer h3 (List.forall_mem_map.2 fun _ _ => ⟨nofun, nofun⟩)
  have ht4 : u4.timer = u3.timer := execAll_keeps_timer h4 (List.forall_mem_map.2 fun _ _ => ⟨nofun, nofun⟩)
  have hcfg : u4.cfg = s.cfg := by
    rw [execAll_keeps_cfg h4, execAll_keeps_cfg h3, execAll_keeps_cfg h2, execAll_keeps_cfg h1]
  have hlast : t.timer = (if x.tick then incWrap u4.cfg.tsw u4.timer else u4.timer) ∧
      ∀ k c, t.chan? k c = u4.chan? k c := by
    cases htick : x.tick <;> rw [htick] at h5 <;> cases h5 <;> exact ⟨rfl, fun _ _ => rfl⟩
  obtain ⟨htimer, hchan⟩ := hlast
  refine ⟨?_, fun k c z hz => ?_⟩
  · rw [htimer, hcfg, ht4, ht3, ht2, ht1]
    rfl
  · rw [hchan, execAll_rxBytes_keeps_channels h4] at hz
    obtain ⟨y', hy', hfall⟩ := execAll_edges (edge := .fall) (fun h => execFall_eq_next.1 h) (fun _ _ => rfl) h3 hz
    obtain ⟨y, -, hrise⟩ := execAll_edges (edge := .rise) (fun h => execRise_eq_next.1 h) (fun _ _ => rfl) h2 hy'
    rw [ht2, ht1] at hfall
    rw [ht1] at hrise
    exact ⟨y, y', hrise, hfall⟩

/-! ## The cycle -/

theorem State.withPending_nil (hp : s.pending = []) : s.withPending [] = s := by
  rw [← hp]
  rfl

theorem State.clockIn_eq_withPending (hp : s.pending = []) : s.clockIn x = s.withPending (s.serialise x) := by
  simp [State.clockIn, State.withPending, hp]

/-- With nothing else pending, the steps of a cycle are the operations that its signals decode to. -/
theorem run_clockIn {is : List Instr} (hwf : s.cfg.wf = true) (hp : s.pending = [])
    (hd : (s.serialise x).map (decodeSignal s.cfg) = is.map .ok) (h : execAll is s = .next t) :
    Host.Core.run Sys2Proof.core is.length (s.clockIn x) = .next t := by
  have hkept : t.withPending [] = t := by
    have hsame := execAll_withPending is s []
    rw [State.withPending_nil hp, h, withPending_next] at hsame
    exact (Host.Outcome.next.inj hsame).symm
  rw [State.clockIn_eq_withPending hp, run_of_pending hwf hd h, hkept]

theorem State.ShapeOk.hasChannel (hs : s.ShapeOk) (hz : s.chan? k c = some z) : s.cfg.hasChannel k c = true := by
  have ⟨hlen, _⟩ := hs
  obtain ⟨row, hrow, -⟩ := State.chan?_eq_some.1 hz
  have hk : k < s.cfg.pm.length := hlen ▸ (List.getElem?_eq_some_iff.1 hrow).1
  have hm := List.getElem?_eq_getElem hk
  exact Config.hasChannel_iff.2 ⟨_, hm, hs.lt_nch hm hz⟩

/-- Settles O54: the signals of a cycle decode to its operations (`map_decodeSignal_serialise`), which the steps run
(`run_clockIn`) and which all answer a next state; what they leave is `execAll_cycleOps`. -/
theorem clockCycleOrdersMainContextRisesFallsTick : Obligations.ClockCycleOrdersMainContextRisesFallsTick := by
  refine ⟨fun s x hs hp hx => ?cycle, fun s x hwf hp hx => ?reset⟩
  case cycle =>
    obtain ⟨t, ht⟩ := hs.exists_execAll fun _ => wf_of_mem_cycleOps hx
    have hrun := run_clockIn hs.config hp (map_decodeSignal_serialise s hx) ht
    obtain ⟨htimer, hchan⟩ := execAll_cycleOps (fun _ => ne_of_mem_mainOps) ht
    refine ⟨s.mainOps x, strobed s.cfg x.rise, strobed s.cfg x.fall, t, mainOps_cycleMain s x,
      strobed_edgesInOrder .., strobed_edgesInOrder .., hrun, ht, htimer, fun k c z hz => ?_⟩
    have hc : s.cfg.hasChannel k c = true := execAll_keeps_cfg ht ▸ (execAll_keeps_inv hs ht).shape.hasChannel hz
    obtain ⟨y, y', hy', hz'⟩ := hchan k c z hz
    simp only [mem_strobed, hc, true_and] at hy' hz'
    refine ⟨fun hrise => ?_, fun hfall => ?_, fun hrise hfall => ?_⟩
    · rw [if_pos hrise] at hy'
      rw [hz', hy']
      split <;> rfl
    · rw [hz', if_pos hfall]
      exact ⟨rfl, rfl⟩
    · rw [hz', if_neg hfall, hy', if_pos hrise]
      rfl
  case reset =>
    have hd : decodeSignal s.cfg (.port .rst 1) = .ok .reset := rfl
    exact run_clockIn (is := [.reset]) hwf hp (by simp [State.serialise, hx, hd]) rfl

end Sys2Proof.Machine
end

section
/-! SUPPORT. No operation and no run of the block stops (70_reset_and_hazards R272, R273): a well-formed operation
answers a state of the block (`State.Inv.exists_exec`, `exec_keeps_inv`) and leaves alone what is pending, so a step from
decodable pending signals finds decodable ones again. -/

namespace Sys2Proof.Machine

variable {s t : State} {i : Instr}

/-- Settles O47: every well-formed operation answers a next state, and no operation breaks the invariant. -/
theorem everyOperationIsTotalOnStatesOfTheBlock : Obligations.EveryOperationIsTotalOnStatesOfTheBlock := by
  intro s i hs hi
  obtain ⟨t, ht⟩ := hs.exists_exec hi
  exact ⟨t, ht, exec_keeps_inv hs ht⟩

/-- No operation writes `pending`: it does the same when the signals pending are put there again. -/
theorem exec_keeps_pending (h : exec i s = .next t) : t.pending = s.pending := by
  have hsame : exec i s = withPending s.pending (exec i s) := exec_withPending (s := s) (p := s.pending) i
  rw [h, withPending_next] at hsame
  have heq : t = t.withPending s.pending := Host.Outcome.next.inj hsame
  rw [heq]
  rfl

theorem State.PendingOk.tail {g : Signal} {rest : List Signal} (hok : s.PendingOk) (hp : s.pending = g :: rest) :
    (s.withPending rest).PendingOk :=
  fun g' hg' => hok g' (hp ▸ List.mem_cons_of_mem g hg')

theorem State.PendingOk.after_exec (hok : s.PendingOk) (h : exec i s = .next t) : t.PendingOk := by
  unfold State.PendingOk
  rw [exec_keeps_pending h, exec_keeps_cfg h]
  exact hok

/-- An operation on a state whose pending signals are decodable leaves another such state. -/
theorem State.Inv.exists_exec_pendingOk (hs : s.Inv) (hok : s.PendingOk) (hi : i.wf s.cfg = true) :
    ∃ t, exec i s = .next t ∧ t.Inv ∧ t.PendingOk := by
  obtain ⟨t, ht, hinv⟩ := everyOperationIsTotalOnStatesOfTheBlock s i hs hi
  exact ⟨t, ht, hinv, hok.after_exec ht⟩

/-- A step waits, runs the enabled micro-step, or runs the operation of the oldest pending signal. -/
theorem State.Inv.exists_step_pendingOk (hs : s.Inv) (hok : s.PendingOk) :
    ∃ t, step s = .next t ∧ t.Inv ∧ t.PendingOk := by
  rcases s.fetch_cases with ⟨hf, -⟩ | ⟨m, hf, -⟩ | ⟨g, rest, hf, hp⟩
  · exact ⟨s, step_of_fetch_eq_none hs.config hf, hs, hok⟩
  · have hd : decodeSignal s.cfg (.internal m) = .ok m.instr := rfl
    rw [step_of_decoded hs.config hf hd]
    exact hs.exists_exec_pendingOk hok (decodeSignal_wf hd)
  · obtain ⟨i, hd⟩ := hok g (hp ▸ List.mem_cons_self)
    rw [step_of_decoded hs.config hf hd]
    exact (hs.withPending rest).exists_exec_pendingOk (hok.tail hp) (decodeSignal_wf hd)

/-- Settles O49, by induction on the number of steps: each leaves the invariant and decodable pending signals
(`State.Inv.exists_step_pendingOk`). -/
theorem noRunOfTheBlockStops : Obligations.NoRunOfTheBlockStops := by
  intro n
  induction n with
  | zero => exact fun s hs _ => ⟨s, rfl, hs⟩
  | succ n ih =>
    intro s hs hok
    obtain ⟨u, hstep, hu, huok⟩ := hs.exists_step_pendingOk hok
    rw [run_succ_of_step n hstep]
    exact ih u hu huok

end Sys2Proof.Machine
end

section
/-! SUPPORT. After RESET, with no edge (70_reset_and_hazards R251): no channel holds a sample, so an update observes the
channels without an effect, and every held width is the initial one. -/

namespace Sys2Proof.Machine

variable {s t : State} {k c : Nat} {m : PulseModule}

/-- RESET leaves every channel of the configuration at its reset values (10_state R40). -/
theorem execReset_chan? (h : execReset s = .next t) (hm : s.cfg.pm[k]? = some m) (hc : c < m.nch) :
    t.chan? k c = some (Channel.atReset m.initWidth) := by
  cases h
  refine (resetOf_chan? s.cfg k c).trans ?_
  rw [hm, Option.bind_some, if_pos hc]

/-- Without a sample in the module, UPDATE_STEPs move the sequencer and do nothing else. -/
theorem execAll_updateSteps_of_noSamples (hm : s.cfg.pm[k]? = some m)
    (hno : ∀ c, c < m.nch → ∃ x, s.chan? k c = some x ∧ x.hasNew = false) {n : Nat} (hn : c + n ≤ m.nch) :
    execAll (List.replicate n .updateStep) (s.withMState (sequencerAt k m c)) =
      .next (s.withMState (sequencerAt k m (c + n))) := by
  induction n generalizing c with
  | zero => rfl
  | succ n ih =>
    have hc : c < m.nch := by omega
    obtain ⟨x, hx, hnew⟩ := hno c hc
    have hobserve := observeChannel_withMState (p := sequencerAt k m c) (observeChannel_of_noSample hx hnew)
    have hstep : exec .updateStep (s.withMState (sequencerAt k m c)) =
        .next (s.withMState (sequencerAt k m (c + 1))) :=
      execUpdateStep_of_inUpdate (u := s.withMState (sequencerAt k m c)) (if_pos hc) hobserve hm
    rw [List.replicate_succ, execAll, hstep, andThen_next, ih (by omega), Nat.add_assoc, Nat.add_comm 1 n]

/-- An update request and its UPDATE_STEPs leave an idle block without samples in the module as it was. -/
theorem execAll_update_of_noSamples (hwf : s.cfg.wf = true) (hidle : s.mstate = .idle) (hm : s.cfg.pm[k]? = some m)
    (hno : ∀ c, c < m.nch → ∃ x, s.chan? k c = some x ∧ x.hasNew = false) :
    execAll (.opUpdate k :: List.replicate m.nch .updateStep) s = .next s := by
  obtain ⟨m', hm', hpos⟩ := Config.hasChannel_iff.1 (Config.hasChannel_zero hwf hm)
  cases hm.symm.trans hm'
  have hstart : exec (.opUpdate k) s = .next (s.withMState (sequencerAt k m 0)) :=
    execOpUpdate_eq_next.2 ⟨m, hm, .inr ⟨hidle, by rw [sequencerAt, if_pos hpos]; rfl⟩⟩
  have hend : s.withMState (sequencerAt k m (0 + m.nch)) = s := by
    rw [sequencerAt, if_neg (by omega), ← hidle]
    rfl
  rw [execAll, hstart, andThen_next, execAll_updateSteps_of_noSamples hm hno (by omega), hend]

/-- Settles O41: RESET leaves every channel without a sample and with the initial width (`execReset_chan?`). -/
theorem afterResetReportsShowTheInitialWidth : Obligations.AfterResetReportsShowTheInitialWidth := by
  intro s t k m hwf h hm
  have hchan : ∀ c, c < m.nch → t.chan? k c = some (Channel.atReset m.initWidth) :=
    fun c hc => execReset_chan? h hm hc
  obtain ⟨hcfg, hidle, htx⟩ : t.cfg = s.cfg ∧ t.mstate = .idle ∧ t.tx = [] := by cases h; exact ⟨rfl, rfl, rfl⟩
  rw [← hcfg] at hwf hm ⊢
  have hupdate : execAll (.opUpdate k :: List.replicate m.nch .updateStep) t = .next t :=
    execAll_update_of_noSamples hwf hidle hm fun c hc => ⟨_, hchan c hc, rfl⟩
  have hreport := (execOpReport_of_idle hidle hm).trans
    (fullLines_of_heldWidths hm fun c hc => ⟨_, hchan c (List.mem_range.1 hc), rfl⟩)
  refine ⟨⟨t, hupdate, htx⟩, ⟨_, hreport, ?_⟩⟩
  rw [State.txEmit_tx, htx]
  rfl

end Sys2Proof.Machine
end

section
/-! SUPPORT. The classes of states of 70_reset_and_hazards R272. -/

namespace Sys2Proof.Machine

variable {s : State}

/-- A stuck frame has no enabled micro-step. -/
theorem State.Stuck.enabledMicro_eq_none (h : s.Stuck) : s.enabledMicro = none := by
  obtain ⟨hm, hd, hr, hto⟩ := h
  simp [enabledMicro_of_starved hm hd hr, hto]

/-- A frame in progress can take its handler, its next byte or its timeout, or it is stuck. -/
theorem State.Inv.busy_or_stuck_of_inDispatch (hs : s.Inv) (hm : s.mstate = .inDispatch) : s.Busy ∨ s.Stuck := by
  have hbusy : s.mstate ≠ .idle := by simp [hm]
  cases hd : s.dstate with
  | awaitingOpcode => exact absurd hd (hs.modes.1 hm)
  | dispatching => exact .inl ⟨hbusy, by simp [enabledMicro_of_dispatching hm hd]⟩
  | awaitingPayload =>
    by_cases hr : s.rxq = []
    · cases hto : s.timeoutEnabled with
      | true => exact .inl ⟨hbusy, by simp [enabledMicro_of_starved hm hd hr, hto]⟩
      | false => exact .inr ⟨hm, hd, hr, hto⟩
    · exact .inl ⟨hbusy, by simp [enabledMicro_of_byteQueued hm hd hr]⟩

/-- Settles O50: the class by `mstate`; no two of them, because `mstate` or the enabled micro-step differs. -/
theorem quiescentBusyOrStuckAndOnlyOne : Obligations.QuiescentBusyOrStuckAndOnlyOne := by
  intro s hs
  refine ⟨?one, fun ⟨hidle, hbusy, _⟩ => hbusy hidle, fun ⟨hidle, hm, _⟩ => ?idleStuck,
    fun ⟨⟨_, henabled⟩, hstuck⟩ => henabled hstuck.enabledMicro_eq_none⟩
  case one =>
    cases hm : s.mstate with
    | idle => exact .inl hm
    | inUpdate k c => exact .inr (.inl ⟨by simp [hm], by simp [enabledMicro_of_inUpdate hm]⟩)
    | inDispatch => exact .inr (hs.busy_or_stuck_of_inDispatch hm)
  case idleStuck => cases hidle.symm.trans hm

end Sys2Proof.Machine
end
